-- ==== Sys2Proof/Word.lean ====
section
/-! DEFINITION. The plain word and name types of the Kuolan KQ-416: bytes, timestamps, hosts, lanes, table indices
and the sets over hosts and lanes (00_scope.md sections 2, 6 and 7). -/

namespace Sys2Proof

/-- One byte on a port, in a record or on a lane. -/
abbrev Byte := BitVec 8

/-- The 32-bit microsecond timestamp (R193). -/
abbrev Stamp := BitVec 32

/-- A host, H0 to H3 (00_scope.md section 6). -/
abbrev HostId := Fin 4

/-- A Target Table index, 0 to 47 (R1). -/
abbrev TargetId := Fin 48

/-- A set of hosts: bit n is set for Hn (R205). -/
abbrev HostSet := BitVec 4

/-- A set of lanes: bit 0 is A, bit 1 is B (R205). -/
abbrev LaneSet := BitVec 2

/-- The two management-bus lanes. -/
inductive LaneId where
  | A | B
  deriving DecidableEq, Repr

/-- The clock line and the data line of a lane. -/
inductive Line where
  | clock | data
  deriving DecidableEq, Repr

/-- Membership of a host in a host set. -/
def hostIn (set : HostSet) (h : HostId) : Bool := set.getLsbD h.val

/-- Membership of a lane in a lane set. -/
def laneIn (set : LaneSet) : LaneId → Bool
  | .A => set.getLsbD 0
  | .B => set.getLsbD 1

/-- The four hosts in number order. -/
def allHosts : List HostId := [0, 1, 2, 3]

/-- The 48 table indices in ascending order. -/
def allTargets : List TargetId := List.finRange 48

end Sys2Proof
end

