-- ==== Sys2Proof/Config.lean ====
section
/-! DEFINITION. The quantities the manual fixes (00_scope.md section 7 and the rules named) and the free values:
constants without a body for values the manual leaves open (notes/assumptions 7 and 8). -/

namespace Sys2Proof.Config

/-- Credits of each host (R30). -/
def credits : Nat := 16

/-- Capacity of a Notice Queue (R139). -/
def noticeCapacity : Nat := 12

/-- Capacity of a lease wait list (R50). -/
def waitListCapacity : Nat := 3

/-- Elements an open chain may hold (R34). -/
def chainCapacity : Nat := 8

/-- The bypass count at which a candidate is urgent, and at which the count stays (R79, R82). -/
def urgentBypass : Nat := 8

/-- Chain window after device reset, in ms (R167). -/
def chainWindowReset : Nat := 20

/-- Stuck limit of a line, in ms (R107), and the Image Loader's limit on a data line that stays low (R199). -/
def stuckLimitMs : Nat := 35

/-- Idle limit of a lane, in microseconds (R105), and the high time the Image Loader waits for (R197, R199; DESIGN CHOICE that it
too ends on the microsecond count, log 29). -/
def idleLimitUs : Nat := 1000

/-- Gap between recovery attempts, in ms (R108). -/
def recoveryGapMs : Nat := 1

/-- Recovery attempts of one sequence (R108). -/
def recoveryAttempts : Nat := 3

/-- The Image Loader's clock hold limit, in microseconds (R199). -/
def imageHoldLimitUs : Nat := 25000

/-- Transfers the Image Loader makes at most (R199). -/
def imageTransfers : Nat := 8

/-- Longest command payload and response payload (R178, R180). -/
def maxPayload : Nat := 60

/-- The marker that opens a command frame (R179). -/
def frameMarker : Byte := 0x3C

/-- The marker that opens a response read (R179). -/
def readMarker : Byte := 0xC3

/-- FREE VALUE (log 7): whether a time left of `us` microseconds, not a whole number of milliseconds, is reported rounded
up (true) or down (false). R12 and R172 do not say. -/
opaque roundsUp : Nat → Bool

/-- FREE VALUE (log 8): the chain count byte of HOST_STATUS when no chain is open (R207 gives the byte, R172 no value). -/
opaque noChainCount : Byte

/-- FREE VALUE (log 8): the chain lane byte of HOST_STATUS when no chain is open. -/
opaque noChainLane : Byte

/-- FREE VALUE (log 8): the window time byte of HOST_STATUS when no chain is open. -/
opaque noChainMsLeft : Byte

/-- FREE VALUE (log 7): the window time byte of HOST_STATUS when the rounded time does not fit one byte. -/
opaque windowOver : Byte

/-- FREE VALUE (log 8): the attempt number byte of LANE_STATUS when the lane has no current run (R207). -/
opaque noRunAttempt : Byte

end Sys2Proof.Config
end

