-- ==== Sys2Proof/Syntax.lean ====
section
/-! DEFINITION. The commands of the block: one constructor of Instr per row of spec/opcode_table.json, with the row's
operands. A host's command carries its fields as they travel on the port (R207), so that a value out of range can be
written; a row that reports what an engine read on the wires carries what was read (notes/assumptions 5). -/

namespace Sys2Proof

/-- A well-formed command frame less its marker, length byte and frame check (R180). -/
structure Frame where
  code : Byte
  exch : Byte
  payload : List Byte
  deriving DecidableEq, Repr

/-- The SUBMIT payload as it travels: the descriptor layout of R207, the write length byte being the length of the data. -/
structure RawDescriptor where
  tag : Byte
  target : Byte
  kind : Byte
  mark : Byte
  cls : Byte
  flags : Byte
  waitLimit : BitVec 16
  readLen : Byte
  writeData : List Byte
  deriving DecidableEq, Repr

/-- The eleven configurable fields of a table entry as they travel, in image-entry order (R207, R209). -/
structure RawSettings where
  lane : Byte
  address : Byte
  access : Byte
  subscribers : Byte
  retryBudget : Byte
  retryOnNack : Byte
  threshold : Byte
  stretch : Byte
  sweepMember : Byte
  alertReg : Byte
  alertClear : Byte
  deriving DecidableEq, Repr

/-- The fields of TRACE_CONTROL SET after the action byte, as they travel (R207). -/
structure RawTraceSet where
  mode : Byte
  trigKind : Byte
  trigValue : Byte
  postCount : Byte
  hosts : Byte
  lanes : Byte
  faultsOnly : Byte
  deriving DecidableEq, Repr

/-- What a Lane Engine observes in one recovery attempt (R108). -/
inductive RecoveryObs where
  /-- Step 1: the clock reads low, so the attempt fails at once. -/
  | clockHeld
  /-- The data line is still low after the ninth pulse. -/
  | dataHeld
  /-- The data line reads high after `pulses` pulses and a STOP is sent; the levels read after it. -/
  | stopped (pulses : Nat) (clockHigh dataHigh : Bool)
  deriving DecidableEq, Repr

/-- What the engine of the lane a command names reads while the command is taken: the present line levels, which
LANE_STATUS reports, and the first recovery attempt, which LANE_RESTART makes (R113, R114). -/
structure LaneObs where
  clockHigh : Bool
  dataHigh : Bool
  recovery : RecoveryObs
  deriving DecidableEq, Repr

/-- How far an attempt had come when it stopped: the element on the wires (counted from 0), the read data of the
elements before it, its own write bytes acknowledged and the read bytes it received (R93). `opening` holds when it stopped at
the repeated START that begins the element, before its address byte, where the stretch limit of the element before is still in
use (R91, R92). -/
structure Progress where
  elem : Nat
  opening : Bool
  done : List (List Byte)
  written : Nat
  part : List Byte
  deriving DecidableEq, Repr

/-- The ends of an alert read (R123). The counts are bytes out and bytes in as reached. -/
inductive ReadEnd where
  | ok (byte : Byte)
  /-- An address byte answered NACK: the read address when `second`; `dataLow` when the STOP after it finds the data line low (R111). -/
  | addrNack (second dataLow : Bool)
  | dataNack (dataLow : Bool)
  /-- The clock was held from microsecond `since`, beyond the copied stretch limit. -/
  | stretch (out : Nat) (since : Nat)
  | arbLost (out inn : Nat)
  deriving DecidableEq, Repr

/-- The ends of a write-back (R125). -/
inductive WriteEnd where
  | ok
  | addrNack (dataLow : Bool)
  | dataNack (acked : Nat) (dataLow : Bool)
  | stretch (out : Nat) (since : Nat)
  | arbLost (out : Nat)
  deriving DecidableEq, Repr

/-- The byte of the image transfer's opening that was answered NACK (R199). -/
inductive ImageNack where
  | addressW | offset1 | offset2 | addressR
  deriving DecidableEq, Repr

/-- The levels of one lane's pins at the release of a device reset (R107, R118). -/
structure LanePins where
  alertLow : Bool
  clockLow : Bool
  dataLow : Bool
  deriving DecidableEq, Repr

/-- The pins sampled at the release of a device reset (R168, R195). `hostHigh` holds the hosts whose HRSTn_n reads high. -/
structure ResetPins where
  adm : HostId
  imgen : Bool
  imga : Fin 8
  hostHigh : HostSet
  laneA : LanePins
  laneB : LanePins
  deriving DecidableEq, Repr

/-- A transfer on a host port (R179): the host, and for how many microseconds chip select has been asserted when the row is taken
(R186, log 10). -/
structure Transfer where
  host : HostId
  lasted : Nat
  deriving DecidableEq, Repr

/-- The moment of a response read that its row stands for (R181, R191): the end of the marker byte, at which the port captures the
slot, or the release of chip select, with how many complete bytes were clocked after the marker. -/
inductive ReadPart where
  | marker
  | release (clocked : Nat)
  deriving DecidableEq, Repr

/-- The commands, one constructor per row of spec/opcode_table.json in the table's order. `h` is the host whose port the
frame arrives on, `x` the frame's exchange number, `lane` a lane. `v` is the transfer, on the rows that are a transfer as such;
the row of a host command is a frame that begins and ends at the present microsecond (log 10). -/
inductive Instr where
  | commandFrame (v : Transfer) (f : Frame) (o : LaneObs)
  | malformedFrame (v : Transfer) (bytes : List Byte)
  | repeatFrame (v : Transfer) (f : Frame)
  | discardedFrame (v : Transfer) (bytes : List Byte)
  | responseRead (v : Transfer) (part : ReadPart)
  | ignoredTransfer (v : Transfer) (bytes : List Byte)
  | unknownCommand (v : Transfer) (f : Frame)
  | submit (h : HostId) (x : Byte) (d : RawDescriptor)
  | cancel (h : HostId) (x tag : Byte)
  | resume (h : HostId) (x : Byte)
  | fetchCompletion (h : HostId) (x : Byte)
  | retire (h : HostId) (x tag : Byte)
  | fetchNotice (h : HostId) (x : Byte)
  | ackNotice (h : HostId) (x : Byte)
  | lease (h : HostId) (x index : Byte) (duration : BitVec 16) (option : Byte)
  | release (h : HostId) (x index : Byte)
  | leaseRevoke (h : HostId) (x index : Byte)
  | tableRead (h : HostId) (x index : Byte)
  | tableWriteDefine (h : HostId) (x index : Byte) (r : RawSettings)
  | tableWriteUndefine (h : HostId) (x index : Byte) (r : RawSettings)
  | targetControlOnline (h : HostId) (x index : Byte)
  | targetControlOffline (h : HostId) (x index : Byte)
  | targetControlQuarantine (h : HostId) (x index : Byte)
  | laneConfig (h : HostId) (x lane speed enabled : Byte)
  | laneStatus (h : HostId) (x lane : Byte) (o : LaneObs)
  | laneRestart (h : HostId) (x lane : Byte) (o : LaneObs)
  | hostStatus (h : HostId) (x host : Byte)
  | hostConfig (h : HostId) (x completions notices stopOnFault window : Byte)
  | hostRights (h : HostId) (x host rights cap lanes : Byte)
  | detach (h : HostId) (x : Byte)
  | traceClaim (h : HostId) (x option : Byte)
  | traceRelease (h : HostId) (x : Byte)
  | traceControlSet (h : HostId) (x : Byte) (r : RawTraceSet)
  | traceControlClear (h : HostId) (x : Byte)
  | traceControlOff (h : HostId) (x : Byte)
  | traceRead (h : HostId) (x : Byte) (index : BitVec 16)
  | deviceInfo (h : HostId) (x : Byte)
  | deviceResetAssert
  | deviceResetRelease (p : ResetPins)
  | hostResetAssert (h : HostId)
  | hostResetRelease (h : HostId)
  | alertInputFall (lane : LaneId)
  | alertInputRise (lane : LaneId)
  | foreignLineLow (lane : LaneId) (line : Line)
  | foreignStopSeen (lane : LaneId)
  | idleLimit (lane : LaneId) (since : Nat)
  | stuckLimit (lane : LaneId) (line : Line) (since : Nat) (r : RecoveryObs)
  | recoveryAttempt (lane : LaneId) (r : RecoveryObs)
  | dispatcherChoice (lane : LaneId)
  | attemptSuccess (lane : LaneId) (reads : List (List Byte))
  | addressNack (lane : LaneId) (elem : Nat) (done : List (List Byte)) (second dataLow : Bool)
  | writeByteNack (lane : LaneId) (elem : Nat) (done : List (List Byte)) (acked : Nat) (dataLow : Bool)
  | arbitrationLoss (lane : LaneId) (p : Progress)
  | stretchTimeout (lane : LaneId) (p : Progress) (since : Nat)
  | closingStop (lane : LaneId) (clockHigh dataHigh : Bool)
  | leaseExpiry (t : TargetId)
  | waitDeadline (h : HostId) (tag : Byte)
  | chainWindowExpiry (h : HostId)
  | alertReadEnd (lane : LaneId) (e : ReadEnd)
  | writeBackEnd (lane : LaneId) (e : WriteEnd)
  | imageLoadStart (since : Nat)
  | imageFieldCheck (bytes : List Byte)
  | imageAddressNack (w : ImageNack)
  | imageArbLost (offsets : Nat) (field : List Byte)
  | imageStretchTimeout (since offsets extra : Nat)
  | imageDataStuck (since : Nat)
  | imageLoadSuccess
  | imageWaitStopSeen
  deriving DecidableEq, Repr

end Sys2Proof
end

