-- ==== Sys2Proof/WellFormed.lean ====
section
/-! DEFINITION. Well-formed commands: the checks that bound a row's operands by what a port, a run or an image can carry.
Every meaning is total on ill-formed commands too. -/

namespace Sys2Proof

/-- A payload fits a command frame (R180). -/
def Frame.wf (f : Frame) : Bool := decide (f.payload.length ≤ Config.maxPayload)

/-- The write data fits a SUBMIT payload, which holds ten bytes before it (R180, R207). -/
def RawDescriptor.wf (d : RawDescriptor) : Bool := decide (d.writeData.length + 10 ≤ Config.maxPayload)

/-- A recovery attempt pulses the clock 1 to 9 times before it stops (R108). -/
def RecoveryObs.wf : RecoveryObs → Bool
  | .clockHeld | .dataHeld => true
  | .stopped pulses _ _ => decide (1 ≤ pulses ∧ pulses ≤ 9)

/-- Read data of one element: at most 32 bytes (R25). -/
def readDataWf (r : List Byte) : Bool := decide (r.length ≤ 32)

/-- Results of the elements of one run: at most 8, each of at most 32 bytes (R25, R34). -/
def readsWf (rs : List (List Byte)) : Bool := decide (rs.length ≤ 8) && rs.all readDataWf

/-- An element's place in a run, at most the eighth, after the elements whose data it names (R34, R91). -/
def placeWf (elem : Nat) (done : List (List Byte)) : Bool :=
  decide (elem < 8) && decide (done.length = elem) && readsWf done

/-- A point an attempt can have reached. -/
def Progress.wf (p : Progress) : Bool :=
  placeWf p.elem p.done && decide (p.written ≤ 32) && readDataWf p.part

/-- Counts of an alert read: at most one byte each way (R123). -/
def ReadEnd.wf : ReadEnd → Bool
  | .ok _ | .addrNack _ _ | .dataNack _ => true
  | .stretch out _ => decide (out ≤ 1)
  | .arbLost out inn => decide (out ≤ 1 ∧ inn ≤ 1)

/-- Counts of a write-back: at most two bytes out (R125). -/
def WriteEnd.wf : WriteEnd → Bool
  | .ok | .addrNack _ => true
  | .dataNack acked _ => decide (acked ≤ 1)
  | .stretch out _ => decide (out ≤ 2)
  | .arbLost out => decide (out ≤ 2)

/-- The operands of a command lie within what its row can carry. -/
def Instr.wf : Instr → Bool
  | .commandFrame _ f o => f.wf && o.recovery.wf
  | .repeatFrame _ f => f.wf
  | .unknownCommand _ f => f.wf
  | .submit _ _ d => d.wf
  | .laneStatus _ _ _ o => o.recovery.wf
  | .laneRestart _ _ _ o => o.recovery.wf
  | .stuckLimit _ _ _ r => r.wf
  | .recoveryAttempt _ r => r.wf
  | .attemptSuccess _ reads => readsWf reads
  | .addressNack _ elem done _ _ => placeWf elem done
  | .writeByteNack _ elem done acked _ => placeWf elem done && decide (acked ≤ 31)
  | .arbitrationLoss _ p => p.wf
  | .stretchTimeout _ p _ => p.wf
  | .alertReadEnd _ e => e.wf
  | .writeBackEnd _ e => e.wf
  | .imageFieldCheck bytes => decide (1 ≤ bytes.length ∧ bytes.length ≤ 12)
  | .imageArbLost offsets field => decide (offsets ≤ 2 ∧ field.length ≤ 12)
  | .imageStretchTimeout _ offsets extra => decide (offsets ≤ 2 ∧ extra ≤ 12)
  | .malformedFrame _ _ | .discardedFrame _ _ | .responseRead _ _ | .ignoredTransfer _ _
  | .cancel _ _ _ | .resume _ _ | .fetchCompletion _ _ | .retire _ _ _ | .fetchNotice _ _ | .ackNotice _ _
  | .lease _ _ _ _ _ | .release _ _ _ | .leaseRevoke _ _ _ | .tableRead _ _ _
  | .tableWriteDefine _ _ _ _ | .tableWriteUndefine _ _ _ _
  | .targetControlOnline _ _ _ | .targetControlOffline _ _ _ | .targetControlQuarantine _ _ _
  | .laneConfig _ _ _ _ _ | .hostStatus _ _ _ | .hostConfig _ _ _ _ _ _ | .hostRights _ _ _ _ _ _ | .detach _ _
  | .traceClaim _ _ _ | .traceRelease _ _ | .traceControlSet _ _ _ | .traceControlClear _ _ | .traceControlOff _ _
  | .traceRead _ _ _ | .deviceInfo _ _ | .deviceResetAssert | .deviceResetRelease _
  | .hostResetAssert _ | .hostResetRelease _ | .alertInputFall _ | .alertInputRise _
  | .foreignLineLow _ _ | .foreignStopSeen _ | .idleLimit _ _ | .dispatcherChoice _ | .closingStop _ _ _
  | .leaseExpiry _ | .waitDeadline _ _ | .chainWindowExpiry _
  | .imageLoadStart _ | .imageAddressNack _ | .imageDataStuck _ | .imageLoadSuccess | .imageWaitStopSeen => true

end Sys2Proof
end

