-- ==== Sys2Proof/Machine/State.lean ====
section
/-! DEFINITION. The state of the KQ-416: everything the manual gives the part, as plain data, and its value after a
device reset. Each field names the rule that gives it; INVENTORY.md lists them with their reset values. -/

namespace Sys2Proof.Machine

/-- The block has no fault: every failure it reports is a response status, a completion status, the lane state FAULTED or
the load state LOAD_FAILED. No command ends in a fault (safe: nothing raises one). -/
inductive Fault where
  deriving DecidableEq, Repr

/-- Why a command is refused. -/
inductive Refusal where
  /-- Raised by Machine/Dispatch.lean alone, for a row that has no meaning yet (safe). -/
  | notModelled (mnemonic : String)
  deriving DecidableEq, Repr

/-! ## The Target Table and the leases (01, 03) -/

/-- Entry states (R4). -/
inductive EntryState where
  | undefined | online | quarantined | offline
  deriving DecidableEq, Repr

/-- The configurable fields of a table entry (R2). -/
structure Settings where
  lane : LaneId
  address : BitVec 7
  access : HostSet
  subscribers : HostSet
  retryBudget : Nat
  retryOnNack : Bool
  threshold : Nat
  stretch : Nat
  sweepMember : Bool
  alertReg : Byte
  alertClear : Bool
  deriving DecidableEq, Repr

/-- Why a lease ends (R49). -/
inductive EndReason where
  | expired | revoked | released | offline
  deriving DecidableEq, Repr

/-- The lease state with the fields that are present in it alone: the holder and the end reason (R49). -/
inductive LeaseState where
  | free
  | held (holder : HostId)
  | ending (holder : HostId) (reason : EndReason)
  deriving DecidableEq, Repr

/-- A waiter item: a host and the duration it asked for, in ms (R50). -/
structure Waiter where
  host : HostId
  duration : Nat
  deriving DecidableEq, Repr

/-- A lease record (R49). `expiry` is a tick number, kept when the lease goes ENDING or FREE, where it is not consulted. -/
structure Lease where
  state : LeaseState
  expiry : Nat
  waiters : List Waiter
  deriving DecidableEq, Repr

/-- A table entry (R2). -/
structure TableEntry where
  state : EntryState
  cfg : Settings
  faults : Nat
  lease : Lease
  deriving DecidableEq, Repr

/-! ## Submission entries, completion records and notices (02, 07) -/

/-- Transaction kinds (R25). -/
inductive Kind where
  | write | read | writeRead | probe
  deriving DecidableEq, Repr

/-- Chain marks (R25). -/
inductive ChainMark where
  | solo | first | middle | last
  deriving DecidableEq, Repr

/-- A transaction descriptor (R25). -/
structure Descriptor where
  tag : Byte
  target : TargetId
  kind : Kind
  mark : ChainMark
  cls : Nat
  requireLease : Bool
  noWait : Bool
  noRetry : Bool
  waitLimit : Nat
  readLen : Nat
  writeData : List Byte
  deriving DecidableEq, Repr

/-- State of a submission entry (R27). A RUNNING entry names the lane its run is on. -/
inductive WorkState where
  | queued
  | running (lane : LaneId)
  deriving DecidableEq, Repr

/-- A submission entry (R27). `deadline` is a tick number; `element` is absent for SOLO and k for element k of a chain. -/
structure SubEntry where
  desc : Descriptor
  deadline : Option Nat
  bypass : Nat
  element : Option Nat
  state : WorkState
  deriving DecidableEq, Repr

/-- Completion statuses (R133). -/
inductive CStatus where
  | ok | addrNack | dataNack | stretchTimeout | arbLost | laneFaulted | chainBroken
  | cancelled | expired | leaseLost | targetQuarantined | targetOffline | chainAbandoned
  deriving DecidableEq, Repr

/-- A completion record (R132). -/
structure Completion where
  tag : Byte
  status : CStatus
  target : TargetId
  kind : Kind
  mark : ChainMark
  attempts : Nat
  written : Nat
  readData : List Byte
  finish : Stamp
  pausedMark : Bool
  deriving DecidableEq, Repr

/-- Notice kinds (R141). -/
inductive NoticeKind where
  | alert | alertUnresolved | leaseGranted | leaseEnded | quarantined | restored | tableChanged
  | laneFaulted | laneRestored | traceStopped
  deriving DecidableEq, Repr

/-- What a notice is about (R140). -/
inductive Subject where
  | target (t : TargetId)
  | lane (x : LaneId)
  | none
  deriving DecidableEq, Repr

/-- A notice record (R140). -/
structure Notice where
  kind : NoticeKind
  subject : Subject
  detail : Byte
  count : Nat
  stamp : Stamp
  deriving DecidableEq, Repr

/-! ## Host ports and host contexts (09, 10) -/

/-- Response statuses (R189, R204). -/
inductive Status where
  | done | pending
  | notReady | frameError | unknownCommand
  | noRight | badField | badEntry
  | laneDown | targetOffline | targetQuarantined
  | tagInUse | chainOrder | chainLong | laneMismatch | noCredit
  | notHolder | leased | alreadyWaiting | leaseEnding
  | empty | notPresented | tagMismatch | unknownTag | tooLate
  | entryInUse | duplicateAddress | lastAdmin
  | claimed | notClaimant
  | laneNotFaulted | restartFailed
  deriving DecidableEq, Repr

/-- A stored response (R178). -/
structure Response where
  status : Status
  exch : Byte
  payload : List Byte
  discarded : Bool
  deriving DecidableEq, Repr

/-- The response slot with the response it holds (R178). -/
inductive Slot where
  | empty
  | pending
  | ready (r : Response)
  deriving DecidableEq, Repr

/-- A host port (R178). `memory` is the repeat memory, an exchange number with a frame check; `captured` is what the response read in
progress delivers after its marker, from the slot as it was at the end of the marker byte (R181); `sdo` is the model's record of
the bytes SDOn sent in the last transfer (log 9), and `listensFrom` the microsecond from which the port takes part in transfers: the
release of the device reset or the last rise of the host's reset line (R186, log 10). -/
structure Port where
  slot : Slot
  memory : Option (Byte × Byte)
  discarded : Bool
  captured : Option (List Byte)
  sdo : List Byte
  listensFrom : Nat
  deriving DecidableEq, Repr

/-- A host's rights (R167, R169). -/
structure Rights where
  admin : Bool
  lease : Bool
  trace : Bool
  cap : Nat
  lanes : LaneSet
  deriving DecidableEq, Repr

/-- An open chain (R34). `deadline` is a tick number. -/
structure OpenChain where
  count : Nat
  lane : LaneId
  deadline : Nat
  deriving DecidableEq, Repr

/-- A host: its context (R167), its three queues (R28, R131, R139) and its port (R178). `attached` is the host state. -/
structure HostCtx where
  attached : Bool
  rights : Rights
  credits : Nat
  complEnable : Bool
  noticeEnable : Bool
  stopOnFault : Bool
  paused : Bool
  window : Nat
  chain : Option OpenChain
  presentedTag : Option Byte
  presentedNotice : Bool
  overflow : Bool
  overflowSeen : Bool
  discardedRunning : Nat
  sq : List SubEntry
  cq : List Completion
  nq : List Notice
  port : Port
  deriving DecidableEq, Repr

/-! ## Lanes (04, 05, 06) -/

/-- Lane states (R88). -/
inductive LaneMode where
  | idle | foreign | running | sweep | recovery | faulted | load
  deriving DecidableEq, Repr

/-- Lane speeds (R87). -/
inductive Speed where
  | k100 | k400
  deriving DecidableEq, Repr

/-- The copy a run takes of a table entry's policy (R17). -/
structure Policy where
  retryBudget : Nat
  retryOnNack : Bool
  stretch : Nat
  threshold : Nat
  deriving DecidableEq, Repr

/-- The result of one element in an attempt (R93). -/
structure ElemResult where
  status : CStatus
  written : Nat
  reads : List Byte
  deriving DecidableEq, Repr

/-- A current run (R87). Its entries are the RUNNING entries of its host on the lane, in queue order, and `policies` and
`results` follow that order; `results` is empty while an attempt is on the wires, and `stoppedAt` is the element at which
the last attempt stopped. `start` is the grant (R103); `discarded` marks a run whose host was torn down (R175). -/
structure Run where
  host : HostId
  policies : List Policy
  speed : Speed
  attempt : Nat
  results : List ElemResult
  stoppedAt : Nat
  start : Nat
  discarded : Bool
  deriving DecidableEq, Repr

/-- A recovery sequence in progress: attempts made, its start and the tick of the next attempt (R108, R109). -/
structure Recovery where
  attempts : Nat
  start : Nat
  nextTick : Nat
  deriving DecidableEq, Repr

/-- A LANE_RESTART in progress: the restart caller (R87), the frame it answers (R185), and whether a teardown of the caller
has discarded the response (R115). -/
structure Restart where
  caller : HostId
  exch : Byte
  check : Byte
  live : Bool
  deriving DecidableEq, Repr

/-- The transfer of a visit on the wires: the alert read, or the write-back of the byte read (R123, R125). -/
inductive VisitStage where
  | read
  | writeBack (byte : Byte)
  deriving DecidableEq, Repr

/-- A visit, with the copy it takes of the entry (R122), and the start of its present transfer (R126). -/
structure Visit where
  target : TargetId
  address : BitVec 7
  alertReg : Byte
  alertClear : Bool
  stretch : Nat
  stage : VisitStage
  start : Nat
  deriving DecidableEq, Repr

/-- A sweep record (R121). `position` is absent before index 0. -/
structure Sweep where
  speed : Speed
  position : Option TargetId
  found : Bool
  visit : Option Visit
  deriving DecidableEq, Repr

/-- A lane: its engine (R87, R118), its stuck timings (R107) and its dispatcher (R69). `alertLow` is the sampled level of the
alert input. `clockLowFrom` and `dataLowFrom` are the stuck timings: absent while the line is known to read high, and otherwise
the microsecond before which the present timing cannot have started; the row that reports the limit carries the start (log 19).
`lowSeen` is the microsecond at which a line was last found low, which the 1 ms of high lines cannot begin before (R105, R199). -/
structure Lane where
  mode : LaneMode
  closing : Bool
  speed : Speed
  alertEnabled : Bool
  masked : Bool
  alertLow : Bool
  run : Option Run
  recovery : Option Recovery
  restart : Option Restart
  sweep : Option Sweep
  clockLowFrom : Option Nat
  dataLowFrom : Option Nat
  lowSeen : Nat
  lastGranted : Option HostId
  grantOwed : Bool
  deriving DecidableEq, Repr

/-! ## The trace (08) -/

/-- Run types (R151). -/
inductive RunType where
  | hostRun | sweep | recovery | image
  deriving DecidableEq, Repr

/-- A trace record (R151). -/
structure TraceRecord where
  seq : BitVec 16
  runType : RunType
  host : Option HostId
  tag : Option Byte
  target : Option TargetId
  lane : LaneId
  kind : Kind
  mark : ChainMark
  status : CStatus
  attempts : Nat
  bytesOut : Nat
  bytesIn : Nat
  start : Stamp
  stop : Stamp
  deriving DecidableEq, Repr

/-- Trace modes (R152). -/
inductive TraceMode where
  | continuous | stopAfterTrigger | startAtTrigger
  deriving DecidableEq, Repr

/-- Trace states (R152). -/
inductive TraceState where
  | off | armed | running | post | stopped
  deriving DecidableEq, Repr

/-- Trigger conditions (R156). -/
inductive Trigger where
  | anyFault
  | status (st : CStatus)
  | target (t : TargetId)
  | host (h : HostId)
  deriving DecidableEq, Repr

/-- The Trace Unit (R151, R152). -/
structure Trace where
  ring : Vector (Option TraceRecord) 256
  mode : TraceMode
  state : TraceState
  trigger : Trigger
  postCount : Byte
  hosts : HostSet
  lanes : LaneSet
  faultsOnly : Bool
  write : Byte
  wraps : Nat
  holdsFault : Bool
  trigIndex : Option Byte
  postLeft : Nat
  seq : BitVec 16
  claimant : Option HostId
  deriving DecidableEq, Repr

/-! ## The Image Loader and the whole part (11) -/

/-- Load states (R196). -/
inductive LoadState where
  | loading | loaded | loadFailed | noImage
  deriving DecidableEq, Repr

/-- Failure reasons of a load (R196). -/
inductive LoadFailure where
  | noDevice | badMagic | badVersion | badCount | badEntry | duplicateAddress | badCheck | stretchTimeout
  deriving DecidableEq, Repr

/-- What the loader does with lane A: nothing; wait for the lines to have been high for 1 ms from the release (R197); wait for
a STOP or 1 ms of high lines after a loss of arbitration (R199); or carry a transfer. -/
inductive LoadPhase where
  | none | waitHigh | waitFree | transfer
  deriving DecidableEq, Repr

/-- The image as far as the present transfer has read and checked it (R197, R198). -/
structure Image where
  received : List Byte
  count : Nat
  speedA : Speed
  speedB : Speed
  entries : List Settings
  deriving DecidableEq, Repr

/-- The Image Loader (R196 to R199). `transfers` counts the transfers begun, `start` is the start of the present one. -/
structure Loader where
  state : LoadState
  reason : Option LoadFailure
  phase : LoadPhase
  transfers : Nat
  start : Nat
  image : Image
  deriving DecidableEq, Repr

/-- The strap pins as sampled at the last device reset (R195). -/
structure Straps where
  adm : HostId
  imgen : Bool
  imga : Fin 8
  deriving DecidableEq, Repr

/-- The whole part. `elapsed` is the Time Base's count of microseconds since the release of the device reset (R193, log 3);
`pending` is the model's queue of waiting commands. -/
structure State where
  elapsed : Nat
  resetAsserted : Bool
  straps : Straps
  loader : Loader
  table : Vector TableEntry 48
  hosts : Vector HostCtx 4
  laneA : Lane
  laneB : Lane
  trace : Trace
  pending : List Instr
  deriving DecidableEq, Repr

/-! ## Reset values -/

/-- The configurable fields after device reset (R3). -/
def Settings.afterReset : Settings :=
  { lane := .A, address := 0x08, access := 0, subscribers := 0, retryBudget := 0, retryOnNack := false, threshold := 0,
    stretch := 250, sweepMember := false, alertReg := 0x00, alertClear := false }

/-- A table entry after device reset (R3, R49; DESIGN CHOICE for the expiry time of a FREE lease, log 21). -/
def TableEntry.afterReset : TableEntry :=
  { state := .undefined, cfg := Settings.afterReset, faults := 0,
    lease := { state := .free, expiry := 0, waiters := [] } }

/-- A host port after device reset (R178). -/
def Port.afterReset : Port := { slot := .empty, memory := none, discarded := false, captured := none, sdo := [], listensFrom := 0 }

/-- The rights after device reset of the host that ADM names, and of the others (R169). -/
def Rights.afterReset (adm : Bool) : Rights :=
  { admin := adm, lease := true, trace := true, cap := if adm then 3 else 2, lanes := 0b11 }

/-- A host after device reset (R167), ATTACHED when its reset line reads high (R168). -/
def HostCtx.afterReset (adm high : Bool) : HostCtx :=
  { attached := high, rights := Rights.afterReset adm, credits := Config.credits, complEnable := true, noticeEnable := true,
    stopOnFault := false, paused := false, window := Config.chainWindowReset, chain := none, presentedTag := none,
    presentedNotice := false, overflow := false, overflowSeen := false, discardedRunning := 0, sq := [], cq := [], nq := [],
    port := Port.afterReset }

/-- A lane after device reset (R69, R87), with the levels of its pins at the release (R107, R118): a line that reads low is timed
from the release, and so may be either line of a lane in LOAD. -/
def Lane.afterReset (mode : LaneMode) (p : LanePins) : Lane :=
  { mode := mode, closing := false, speed := .k100, alertEnabled := true, masked := false, alertLow := p.alertLow,
    run := none, recovery := none, restart := none, sweep := none,
    clockLowFrom := if p.clockLow ∨ mode = .load then some 0 else none,
    dataLowFrom := if p.dataLow ∨ mode = .load then some 0 else none, lowSeen := 0,
    lastGranted := none, grantOwed := false }

/-- The Trace Unit after device reset (R151, R152). -/
def Trace.afterReset : Trace :=
  { ring := Vector.replicate 256 none, mode := .continuous, state := .off, trigger := .anyFault, postCount := 0,
    hosts := 0b1111, lanes := 0b11, faultsOnly := false, write := 0, wraps := 0, holdsFault := false, trigIndex := none,
    postLeft := 0, seq := 0, claimant := none }

/-- An image of which nothing has been received. -/
def Image.blank : Image := { received := [], count := 0, speedA := .k100, speedB := .k100, entries := [] }

/-- The Image Loader after device reset (R196, R197). -/
def Loader.afterReset (imgen : Bool) : Loader :=
  { state := if imgen then .loading else .noImage, reason := .none, phase := if imgen then .waitHigh else .none,
    transfers := 0, start := 0, image := Image.blank }

/-- Pins that read high, as on a quiet board. -/
def quietPins : LanePins := { alertLow := false, clockLow := false, dataLow := false }

/-- The part right after the release of a device reset, on a quiet board: no commands waiting, no host held in reset, every
line and alert input high, ADM 0 and no image (R193; DESIGN CHOICE for the levels of the pins, log 4). -/
def State.reset : State :=
  { elapsed := 0, resetAsserted := false, straps := { adm := 0, imgen := false, imga := 0 }, loader := Loader.afterReset false,
    table := Vector.replicate 48 TableEntry.afterReset,
    hosts := Vector.ofFn fun h => HostCtx.afterReset (h == 0) true,
    laneA := Lane.afterReset .idle quietPins, laneB := Lane.afterReset .idle quietPins,
    trace := Trace.afterReset, pending := [] }

end Sys2Proof.Machine
end

