-- ==== Sys2Proof/Machine/Ops.lean ====
section
/-! DEFINITION. The named operations over the state that the meanings share: reading and updating a host, a table entry or
a lane, time, delivering notices, appending completion records, and ending queued work without a run. -/

namespace Sys2Proof.Machine

/-! ## Hosts, entries, lanes -/

/-- A host's context, queues and port. -/
def State.host (s : State) (h : HostId) : HostCtx := s.hosts[h]

/-- Changes one host. -/
def State.updHost (s : State) (h : HostId) (f : HostCtx → HostCtx) : State :=
  { s with hosts := s.hosts.set h (f (s.host h)) }

/-- A table entry. -/
def State.entry (s : State) (t : TargetId) : TableEntry := s.table[t]

/-- Changes one table entry. -/
def State.updEntry (s : State) (t : TargetId) (f : TableEntry → TableEntry) : State :=
  { s with table := s.table.set t (f (s.entry t)) }

/-- A lane. -/
def State.lane (s : State) : LaneId → Lane
  | .A => s.laneA
  | .B => s.laneB

/-- Changes one lane. -/
def State.updLane (s : State) (x : LaneId) (f : Lane → Lane) : State :=
  match x with
  | .A => { s with laneA := f s.laneA }
  | .B => { s with laneB := f s.laneB }

/-- Changes a lease record, which its table entry holds (R2). -/
def State.updLease (s : State) (t : TargetId) (f : Lease → Lease) : State :=
  s.updEntry t fun e => { e with lease := f e.lease }

/-- An event of the part: while a device reset is asserted the part samples no input and acts on no event (R193). -/
def State.live (s : State) (f : State → State) : State := if s.resetAsserted then s else f s

/-! ## Time (R193, R194) -/

/-- The 32-bit timestamp of a microsecond count. -/
def stampAt (us : Nat) : Stamp := BitVec.ofNat 32 us

/-- The present timestamp. -/
def State.stamp (s : State) : Stamp := stampAt s.elapsed

/-- The tick at which a duration of `ms` counted from microsecond `us` expires: the first tick at or after its end (R194). -/
def expiryTick (us ms : Nat) : Nat := ms + (us + 999) / 1000

/-- The expiry of a duration counted from now. -/
def State.expiry (s : State) (ms : Nat) : Nat := expiryTick s.elapsed ms

/-- The Time Base has reached a tick (log 6). -/
def State.reached (s : State) (tick : Nat) : Bool := decide (tick * 1000 ≤ s.elapsed)

/-- A time left in microseconds, in ms; a part of a millisecond is rounded as the free value says (log 7). -/
def msLeft (us : Nat) : Nat := us / 1000 + (if us % 1000 ≠ 0 ∧ Config.roundsUp us then 1 else 0)

/-- The milliseconds left until a tick, 0 when it has passed (R12, R208). -/
def State.msUntil (s : State) (tick : Nat) : Nat := msLeft (tick * 1000 - s.elapsed)

/-! ## Notices (R142) -/

/-- The notice records a coalescing ALERT may not change: the presented one (R142). -/
def HostCtx.presentedPart (c : HostCtx) : List Notice := if c.presentedNotice then c.nq.take 1 else []

/-- The notice records that are not presented. -/
def HostCtx.unpresentedPart (c : HostCtx) : List Notice := if c.presentedNotice then c.nq.drop 1 else c.nq

/-- An ALERT record with this subject. -/
def Notice.isAlertFor (n : Notice) (subj : Subject) : Bool := decide (n.kind = .alert ∧ n.subject = subj)

/-- Case 2 of R142: the first ALERT record with the subject takes the detail by OR and one more repeat, up to 255; absent
when no record has the subject. -/
def coalesceIn (subj : Subject) (detail : Byte) : List Notice → Option (List Notice)
  | [] => none
  | n :: ns =>
    if n.isAlertFor subj then
      some ({ n with detail := n.detail ||| detail, count := if n.count < 255 then n.count + 1 else n.count } :: ns)
    else (coalesceIn subj detail ns).map (n :: ·)

/-- Cases 3 and 4 of R142: append when there is room, otherwise discard and set the overflow flag. -/
def HostCtx.appendNotice (c : HostCtx) (n : Notice) : HostCtx :=
  if c.nq.length < Config.noticeCapacity then { c with nq := c.nq ++ [n] }
  else { c with overflow := true, overflowSeen := false }

/-- R142: what a host's Notice Queue does with a notice. A HELD host's notice is discarded. -/
def HostCtx.takeNotice (c : HostCtx) (k : NoticeKind) (subj : Subject) (detail : Byte) (stamp : Stamp) : HostCtx :=
  if !c.attached then c
  else
    match (if k = .alert then coalesceIn subj detail c.unpresentedPart else none) with
    | some ns => { c with nq := c.presentedPart ++ ns }
    | none => c.appendNotice { kind := k, subject := subj, detail := detail, count := 1, stamp := stamp }

/-- Produces a notice for one host. -/
def State.notify (s : State) (h : HostId) (k : NoticeKind) (subj : Subject) (detail : Byte) : State :=
  s.updHost h fun c => c.takeNotice k subj detail s.stamp

/-- Produces a notice for each host that `who` names (R141). -/
def State.notifyAll (s : State) (who : HostId → Bool) (k : NoticeKind) (subj : Subject) (detail : Byte) : State :=
  allHosts.foldl (fun s h => if who h then s.notify h k subj detail else s) s

/-! ## Completion records (R46, R134) -/

/-- The fault statuses (R46). -/
def CStatus.isFault : CStatus → Bool
  | .addrNack | .dataNack | .stretchTimeout | .arbLost | .laneFaulted | .chainBroken => true
  | .ok | .cancelled | .expired | .leaseLost | .targetQuarantined | .targetOffline | .chainAbandoned => false

/-- Sets the paused marker of the first fault-status record (R46). -/
def markFirstFault : List Completion → List Completion
  | [] => []
  | r :: rs => if r.status.isFault then { r with pausedMark := true } :: rs else r :: markFirstFault rs

/-- Appends a batch of records at the tail; a fault status pauses a host with stop-on-fault set that is not paused, and the
first fault-status record then carries the paused marker (R46, R134). -/
def HostCtx.appendRecords (c : HostCtx) (recs : List Completion) : HostCtx :=
  if c.stopOnFault && !c.paused && recs.any (·.status.isFault) then
    { c with cq := c.cq ++ markFirstFault recs, paused := true }
  else { c with cq := c.cq ++ recs }

/-- The record of an entry that ends without a run (R10, R44). -/
def recordWithoutRun (e : SubEntry) (st : CStatus) (stamp : Stamp) : Completion :=
  { tag := e.desc.tag, status := st, target := e.desc.target, kind := e.desc.kind, mark := e.desc.mark, attempts := 0,
    written := 0, readData := [], finish := stamp, pausedMark := false }

/-! ## Queued work and its ending without a run (R36, R44) -/

/-- The entry continues the chain of the entry before it. -/
def SubEntry.continues (e : SubEntry) : Bool := decide (e.desc.mark = .middle ∨ e.desc.mark = .last)

/-- The entry is QUEUED. -/
def SubEntry.queued (e : SubEntry) : Bool := decide (e.state = .queued)

/-- A Submission Queue cut into its SOLO entries and its chains, in order: the elements of a chain stand next to one another,
from FIRST on (02 section 2.6). -/
def groups : List SubEntry → List (List SubEntry)
  | [] => []
  | e :: es =>
    match groups es with
    | (c :: g) :: gs => if c.continues then (e :: c :: g) :: gs else [e] :: (c :: g) :: gs
    | gs => [e] :: gs

/-- The group is an open chain: its last element so far is not SOLO and not LAST (R34). -/
def isOpen (g : List SubEntry) : Bool :=
  match g.getLast? with
  | some e => decide (e.desc.mark = .first ∨ e.desc.mark = .middle)
  | none => false

/-- The group ends: it is QUEUED work that `hit` picks. -/
def endsGroup (hit : List SubEntry → Bool) (g : List SubEntry) : Bool := g.all (·.queued) && hit g

/-- Takes the ending groups out of a host's Submission Queue, empties the chain-assembly record when the open chain is among
them, and appends one record for each ended entry, in acceptance order (R36, R44). -/
def HostCtx.endWork (c : HostCtx) (hit : List SubEntry → Bool) (st : SubEntry → CStatus) (stamp : Stamp) : HostCtx :=
  let gs := groups c.sq
  let ended := gs.filter (endsGroup hit)
  let kept := gs.filter fun g => !endsGroup hit g
  HostCtx.appendRecords
    { c with sq := kept.flatten, chain := if ended.any isOpen then none else c.chain }
    (ended.flatten.map fun e => recordWithoutRun e (st e) stamp)

/-- Ends queued work of one host. -/
def State.endWork (s : State) (h : HostId) (hit : List SubEntry → Bool) (st : SubEntry → CStatus) : State :=
  s.updHost h fun c => c.endWork hit st s.stamp

/-- Ends queued work of all four hosts. -/
def State.endWorkAll (s : State) (hit : List SubEntry → Bool) (st : SubEntry → CStatus) : State :=
  allHosts.foldl (fun s h => s.endWork h hit st) s

end Sys2Proof.Machine
end

