-- ==== Sys2Proof/Machine/Flags.lean ====
section
/-! DEFINITION. The conditions and levels the part computes from its state and does not store: the attention lines, the
pending alert, the runs that touch a target, the holder of a lease, a table entry in use, the open tags. -/

namespace Sys2Proof.Machine

/-- The attention condition of a host (R149). -/
def HostCtx.attn (c : HostCtx) : Bool :=
  c.attached && ((c.complEnable && !c.cq.isEmpty) || (c.noticeEnable && !c.nq.isEmpty))

/-- ATTNn_n is asserted (R149); every line is released while a device reset is asserted (R193). -/
def State.attn (s : State) (h : HostId) : Bool := !s.resetAsserted && (s.host h).attn

/-- The alert of a lane is pending (R119). -/
def Lane.alertPending (l : Lane) : Bool := l.alertLow && l.alertEnabled && !l.masked

/-- The recovery attempt number (R87, R108). -/
def Lane.recoveryNumber (l : Lane) : Nat := (l.recovery.map (·.attempts)).getD 0

/-- The Image Loader is in state LOADING (R196). -/
def State.loading (s : State) : Bool := decide (s.loader.state = .loading)

/-- The entries of a host that are RUNNING on a lane, in queue order: the entries of the current run (R28, R87). -/
def HostCtx.runningOn (c : HostCtx) (x : LaneId) : List SubEntry := c.sq.filter fun e => decide (e.state = .running x)

/-- The entries of a run on a lane, in element order. -/
def State.runEntries (s : State) (x : LaneId) (r : Run) : List SubEntry := (s.host r.host).runningOn x

/-- The host whose run on lane x touches entry t, if there is one (R51). -/
def State.touchedOn (s : State) (x : LaneId) (t : TargetId) : Option HostId :=
  match (s.lane x).run with
  | some r => if (s.runEntries x r).any (fun e => decide (e.desc.target = t)) then some r.host else none
  | none => none

/-- A run in flight that touches t belongs to host h: with h the holder, the holder's touching run (R51). -/
def State.touchedBy (s : State) (t : TargetId) (h : HostId) : Bool :=
  decide (s.touchedOn .A t = some h ∨ s.touchedOn .B t = some h)

/-- A run in flight that touches t belongs to a host other than h: a touching run of another host (R51). -/
def State.touchedByOther (s : State) (t : TargetId) (h : HostId) : Bool :=
  (s.touchedOn .A t).any (fun g => decide (g ≠ h)) || (s.touchedOn .B t).any fun g => decide (g ≠ h)

/-- The holder of a lease in state HELD or ENDING (R49). -/
def LeaseState.holder : LeaseState → Option HostId
  | .free => none
  | .held h => some h
  | .ending h _ => some h

/-- The host holds the lease in state HELD. -/
def LeaseState.heldBy (l : LeaseState) (h : HostId) : Bool :=
  match l with
  | .held g => decide (g = h)
  | _ => false

/-- A host other than h is the holder, in state HELD or ENDING (R32 check 12, R73). -/
def LeaseState.heldByOther (l : LeaseState) (h : HostId) : Bool :=
  match l.holder with
  | some g => decide (g ≠ h)
  | none => false

/-- The host is on the wait list. -/
def Lease.waits (l : Lease) (h : HostId) : Bool := l.waiters.any fun w => decide (w.host = h)

/-- Work of some host, QUEUED or RUNNING, names the entry (R14). -/
def State.workNames (s : State) (t : TargetId) : Bool :=
  allHosts.any fun h => (s.host h).sq.any fun e => decide (e.desc.target = t)

/-- The entry is in use for a disruptive TABLE_WRITE (R14). -/
def State.inUse (s : State) (t : TargetId) : Bool :=
  s.workNames t || decide ((s.entry t).lease.state ≠ .free) || !(s.entry t).lease.waiters.isEmpty

/-- The tag is outstanding for the host (R29). -/
def HostCtx.tagOpen (c : HostCtx) (tag : Byte) : Bool :=
  c.sq.any (fun e => decide (e.desc.tag = tag)) || c.cq.any (fun r => decide (r.tag = tag))

/-- The number of QUEUED entries. -/
def HostCtx.queuedCount (c : HostCtx) : Nat := (c.sq.filter (·.queued)).length

/-- The number of RUNNING entries that are not discarded (R172). -/
def HostCtx.runningCount (c : HostCtx) : Nat := (c.sq.filter fun e => !e.queued).length - c.discardedRunning

end Sys2Proof.Machine
end

