-- ==== Sys2Proof/Machine/Operands.lean ====
section
/-! DEFINITION. Frame and record formats (12_frame_and_record_formats.md): CRCs, value encodings, the decoding of every
request payload and the layout of every response payload. -/

namespace Sys2Proof.Machine

/-! ## Bytes and CRCs (R203, R204, R210) -/

/-- A count or number in one byte. -/
def byteOf (n : Nat) : Byte := BitVec.ofNat 8 n

/-- Yes or no, on or off, set or clear (R205). -/
def boolByte (b : Bool) : Byte := if b then 1 else 0

/-- A yes/no byte; absent for any other value (R205, R206). -/
def boolOfByte (b : Byte) : Option Bool := if b = 0 then some false else if b = 1 then some true else none

/-- A two-byte number, most significant byte first (R203). -/
def be16 (w : BitVec 16) : List Byte := [w.extractLsb' 8 8, w.extractLsb' 0 8]

/-- A four-byte number, most significant byte first (R203). -/
def be32 (w : BitVec 32) : List Byte :=
  [w.extractLsb' 24 8, w.extractLsb' 16 8, w.extractLsb' 8 8, w.extractLsb' 0 8]

/-- The number two bytes hold, most significant byte first (R203). -/
def ofBe16 (hi lo : Byte) : Nat := hi.toNat * 256 + lo.toNat

/-- One bit step of a CRC register without reflection. -/
def crcBit {w : Nat} (poly c : BitVec w) : BitVec w := if c.msb then (c <<< 1) ^^^ poly else c <<< 1

/-- Eight bit steps. -/
def crcByte {w : Nat} (poly c : BitVec w) : BitVec w :=
  crcBit poly (crcBit poly (crcBit poly (crcBit poly (crcBit poly (crcBit poly (crcBit poly (crcBit poly c)))))))

/-- The CRC-8 of frames: x^8+x^2+x+1, initial value 0xFF (R204). -/
def crc8 (bs : List Byte) : Byte := bs.foldl (fun c b => crcByte 0x07 (c ^^^ b)) 0xFF

/-- The CRC-16 of the image: x^16+x^12+x^5+1, initial value 0xFFFF (R210). -/
def crc16 (bs : List Byte) : BitVec 16 :=
  bs.foldl (fun c b => crcByte 0x1021 (c ^^^ (b ++ (0 : Byte)))) 0xFFFF

/-! ## Enumerated values (R204, R205) -/

/-- Response status codes (R204). -/
def Status.code : Status → Byte
  | .done => 0x01 | .pending => 0x02
  | .notReady => 0x10 | .frameError => 0x11 | .unknownCommand => 0x12
  | .noRight => 0x20 | .badField => 0x21 | .badEntry => 0x22
  | .laneDown => 0x30 | .targetOffline => 0x31 | .targetQuarantined => 0x32
  | .tagInUse => 0x40 | .chainOrder => 0x41 | .chainLong => 0x42 | .laneMismatch => 0x43 | .noCredit => 0x44
  | .notHolder => 0x50 | .leased => 0x51 | .alreadyWaiting => 0x52 | .leaseEnding => 0x53
  | .empty => 0x60 | .notPresented => 0x61 | .tagMismatch => 0x62 | .unknownTag => 0x63 | .tooLate => 0x64
  | .entryInUse => 0x70 | .duplicateAddress => 0x71 | .lastAdmin => 0x72
  | .claimed => 0x80 | .notClaimant => 0x81
  | .laneNotFaulted => 0x90 | .restartFailed => 0x91

/-- Completion status codes. -/
def CStatus.code : CStatus → Byte
  | .ok => 0x00 | .addrNack => 0x01 | .dataNack => 0x02 | .stretchTimeout => 0x03 | .arbLost => 0x04
  | .laneFaulted => 0x05 | .chainBroken => 0x06 | .cancelled => 0x10 | .expired => 0x11 | .leaseLost => 0x12
  | .targetQuarantined => 0x13 | .targetOffline => 0x14 | .chainAbandoned => 0x15

/-- The seven statuses a STATUS trigger may name, by code (R156, R205). -/
def CStatus.ofTriggerByte (b : Byte) : Option CStatus :=
  [CStatus.ok, .addrNack, .dataNack, .stretchTimeout, .arbLost, .laneFaulted, .chainBroken].find? fun st => decide (st.code = b)

/-- A table index byte, 0 to 47. -/
def targetOfByte (b : Byte) : Option TargetId := if h : b.toNat < 48 then some ⟨b.toNat, h⟩ else none

/-- A host byte, 0 to 3. -/
def hostOfByte (b : Byte) : Option HostId := if h : b.toNat < 4 then some ⟨b.toNat, h⟩ else none

/-- A lane byte. -/
def laneOfByte (b : Byte) : Option LaneId := if b = 0 then some .A else if b = 1 then some .B else none

/-- Lane code. -/
def laneByte : LaneId → Byte
  | .A => 0 | .B => 1

/-- Host code; 0xFF when absent. -/
def hostByte : Option HostId → Byte
  | some h => byteOf h.val
  | none => 0xFF

/-- A host set byte: bits 4 to 7 are 0. -/
def hostSetOfByte (b : Byte) : Option HostSet := if b.toNat < 16 then some (b.setWidth 4) else none

/-- A lane set byte: bits 2 to 7 are 0. -/
def laneSetOfByte (b : Byte) : Option LaneSet := if b.toNat < 4 then some (b.setWidth 2) else none

/-- A speed byte. -/
def speedOfByte (b : Byte) : Option Speed := if b = 0 then some .k100 else if b = 1 then some .k400 else none

/-- Speed code. -/
def speedByte : Speed → Byte
  | .k100 => 0 | .k400 => 1

/-- A kind byte. -/
def kindOfByte (b : Byte) : Option Kind :=
  if b = 0 then some .write else if b = 1 then some .read else if b = 2 then some .writeRead else if b = 3 then some .probe
  else none

/-- Kind code. -/
def kindByte : Kind → Byte
  | .write => 0 | .read => 1 | .writeRead => 2 | .probe => 3

/-- A chain mark byte. -/
def markOfByte (b : Byte) : Option ChainMark :=
  if b = 0 then some .solo else if b = 1 then some .first else if b = 2 then some .middle else if b = 3 then some .last
  else none

/-- Chain mark code. -/
def markByte : ChainMark → Byte
  | .solo => 0 | .first => 1 | .middle => 2 | .last => 3

/-- Entry state code. -/
def entryStateByte : EntryState → Byte
  | .undefined => 0 | .online => 1 | .quarantined => 2 | .offline => 3

/-- Lease state code. -/
def leaseStateByte : LeaseState → Byte
  | .free => 0 | .held _ => 1 | .ending _ _ => 2

/-- Notice kind code. -/
def noticeKindByte : NoticeKind → Byte
  | .alert => 1 | .alertUnresolved => 2 | .leaseGranted => 3 | .leaseEnded => 4 | .quarantined => 5 | .restored => 6
  | .tableChanged => 7 | .laneFaulted => 8 | .laneRestored => 9 | .traceStopped => 10

/-- Notice subject code. -/
def subjectByte : Subject → Byte
  | .target t => byteOf t.val
  | .lane x => laneByte x
  | .none => 0xFF

/-- LEASE_ENDED detail code; a RELEASED end sends no notice (R59). -/
def endReasonByte : EndReason → Byte
  | .expired => 1 | .revoked => 2 | .offline => 3 | .released => 0

/-- TRACE_STOPPED detail codes (R205). -/
def triggerDoneByte : Byte := 1
/-- The detail of a stop by a full ring. -/
def fullByte : Byte := 2

/-- Lane state code. -/
def laneModeByte : LaneMode → Byte
  | .idle => 0 | .foreign => 1 | .running => 2 | .sweep => 3 | .recovery => 4 | .faulted => 5 | .load => 6

/-- Trace mode code. -/
def traceModeByte : TraceMode → Byte
  | .continuous => 0 | .stopAfterTrigger => 1 | .startAtTrigger => 2

/-- A trace mode byte. -/
def traceModeOfByte (b : Byte) : Option TraceMode :=
  if b = 0 then some .continuous else if b = 1 then some .stopAfterTrigger else if b = 2 then some .startAtTrigger else none

/-- Trace state code. -/
def traceStateByte : TraceState → Byte
  | .off => 0 | .armed => 1 | .running => 2 | .post => 3 | .stopped => 4

/-- Trigger kind and value codes. -/
def triggerBytes : Trigger → List Byte
  | .anyFault => [0, 0]
  | .status st => [1, st.code]
  | .target t => [2, byteOf t.val]
  | .host h => [3, byteOf h.val]

/-- A trigger from its kind and value bytes; ANY_FAULT carries value 0 (R163, R205, log 17). -/
def triggerOfBytes (k v : Byte) : Option Trigger :=
  if k = 0 then (if v = 0 then some .anyFault else none)
  else if k = 1 then (CStatus.ofTriggerByte v).map .status
  else if k = 2 then (targetOfByte v).map .target
  else if k = 3 then (hostOfByte v).map .host
  else none

/-- Run type code. -/
def runTypeByte : RunType → Byte
  | .hostRun => 0 | .sweep => 1 | .recovery => 2 | .image => 3

/-- Load state code. -/
def loadStateByte : LoadState → Byte
  | .loading => 0 | .loaded => 1 | .loadFailed => 2 | .noImage => 3

/-- Failure reason code; 0 is the cleared value. -/
def loadFailureByte : Option LoadFailure → Byte
  | none => 0
  | some .noDevice => 1 | some .badMagic => 2 | some .badVersion => 3 | some .badCount => 4 | some .badEntry => 5
  | some .duplicateAddress => 6 | some .badCheck => 7 | some .stretchTimeout => 8

/-- The rights byte. -/
def rightsByte (r : Rights) : Byte :=
  boolByte r.admin ||| (boolByte r.lease <<< 1) ||| (boolByte r.trace <<< 2)

/-! ## Command codes (R205) -/

/-- The commands of the code list. -/
inductive Cmd where
  | submit | cancel | resume | fetchCompletion | retire | fetchNotice | ackNotice
  | lease | release | leaseRevoke | tableRead | tableWrite | targetControl
  | laneConfig | laneStatus | laneRestart | hostStatus | hostConfig | hostRights | detach
  | traceClaim | traceRelease | traceControl | traceRead | deviceInfo
  deriving DecidableEq, Repr

/-- The code of a command. -/
def Cmd.code : Cmd → Byte
  | .submit => 0x01 | .cancel => 0x02 | .resume => 0x03
  | .fetchCompletion => 0x08 | .retire => 0x09 | .fetchNotice => 0x0A | .ackNotice => 0x0B
  | .lease => 0x10 | .release => 0x11 | .leaseRevoke => 0x12
  | .tableRead => 0x18 | .tableWrite => 0x19 | .targetControl => 0x1A
  | .laneConfig => 0x20 | .laneStatus => 0x21 | .laneRestart => 0x22
  | .hostStatus => 0x28 | .hostConfig => 0x29 | .hostRights => 0x2A | .detach => 0x2B
  | .traceClaim => 0x30 | .traceRelease => 0x31 | .traceControl => 0x32 | .traceRead => 0x33 | .deviceInfo => 0x3F

/-- The command list. -/
def Cmd.all : List Cmd :=
  [.submit, .cancel, .resume, .fetchCompletion, .retire, .fetchNotice, .ackNotice, .lease, .release, .leaseRevoke,
   .tableRead, .tableWrite, .targetControl, .laneConfig, .laneStatus, .laneRestart, .hostStatus, .hostConfig, .hostRights,
   .detach, .traceClaim, .traceRelease, .traceControl, .traceRead, .deviceInfo]

/-- The command a code names; absent for a code not in the list. -/
def Cmd.ofCode (b : Byte) : Option Cmd := Cmd.all.find? fun c => decide (c.code = b)

/-! ## Requests (R206, R207) -/

/-- A payload of one byte. -/
def oneByte : List Byte → Option Byte
  | [b] => some b
  | _ => none

/-- A payload that is one table index. -/
def parseIndex (p : List Byte) : Option TargetId := (oneByte p).bind targetOfByte

/-- A payload that is one lane. -/
def parseLane (p : List Byte) : Option LaneId := (oneByte p).bind laneOfByte

/-- The lengths that fit a kind (R26). -/
def lengthsFit (k : Kind) (w r : Nat) : Bool :=
  match k with
  | .write => decide (1 ≤ w ∧ w ≤ 32 ∧ r = 0)
  | .read => decide (w = 0 ∧ 1 ≤ r ∧ r ≤ 32)
  | .writeRead => decide (1 ≤ w ∧ w ≤ 32 ∧ 1 ≤ r ∧ r ≤ 32)
  | .probe => decide (w = 0 ∧ r = 0)

/-- The SUBMIT payload of a descriptor (R207). -/
def RawDescriptor.toBytes (d : RawDescriptor) : List Byte :=
  [d.tag, d.target, d.kind, d.mark, d.cls, d.flags] ++ be16 d.waitLimit ++ [d.readLen, byteOf d.writeData.length] ++ d.writeData

/-- The SUBMIT payload as a descriptor; absent where R26 and R206 refuse it BAD_FIELD. -/
def parseDescriptor : List Byte → Option Descriptor
  | tag :: target :: kind :: mark :: cls :: flags :: whi :: wlo :: rl :: w :: data =>
    if data.length = w.toNat ∧ cls.toNat ≤ 3 ∧ flags.toNat < 8 then
      match targetOfByte target, kindOfByte kind, markOfByte mark with
      | some t, some k, some m =>
        if lengthsFit k w.toNat rl.toNat then
          some { tag := tag, target := t, kind := k, mark := m, cls := cls.toNat, requireLease := flags.getLsbD 0,
                 noWait := flags.getLsbD 1, noRetry := flags.getLsbD 2, waitLimit := ofBe16 whi wlo, readLen := rl.toNat,
                 writeData := data }
        else none
      | _, _, _ => none
    else none
  | _ => none

/-- The eleven configurable field bytes in image-entry order (R209). -/
def RawSettings.toBytes (r : RawSettings) : List Byte :=
  [r.lane, r.address, r.access, r.subscribers, r.retryBudget, r.retryOnNack, r.threshold, r.stretch, r.sweepMember,
   r.alertReg, r.alertClear]

/-- Eleven bytes as the configurable fields. -/
def RawSettings.ofBytes : List Byte → Option RawSettings
  | [a, b, c, d, e, f, g, h, i, j, k] => some ⟨a, b, c, d, e, f, g, h, i, j, k⟩
  | _ => none

/-- The configurable fields with every field in range; absent where R13, R198 and R206 refuse a value. -/
def RawSettings.check (r : RawSettings) : Option Settings :=
  if 0x08 ≤ r.address.toNat ∧ r.address.toNat ≤ 0x77 ∧ r.retryBudget.toNat ≤ 7 ∧ r.threshold.toNat ≤ 15
      ∧ 1 ≤ r.stretch.toNat ∧ r.stretch.toNat ≤ 250 then
    match laneOfByte r.lane, hostSetOfByte r.access, hostSetOfByte r.subscribers, boolOfByte r.retryOnNack,
        boolOfByte r.sweepMember, boolOfByte r.alertClear with
    | some x, some acc, some sub, some rn, some sm, some ac =>
      some { lane := x, address := r.address.setWidth 7, access := acc, subscribers := sub, retryBudget := r.retryBudget.toNat,
             retryOnNack := rn, threshold := r.threshold.toNat, stretch := r.stretch.toNat, sweepMember := sm,
             alertReg := r.alertReg, alertClear := ac }
    | _, _, _, _, _, _ => none
  else none

/-- The configurable fields as bytes (R207). -/
def Settings.toBytes (c : Settings) : List Byte :=
  [laneByte c.lane, c.address.setWidth 8, c.access.setWidth 8, c.subscribers.setWidth 8, byteOf c.retryBudget,
   boolByte c.retryOnNack, byteOf c.threshold, byteOf c.stretch, boolByte c.sweepMember, c.alertReg, boolByte c.alertClear]

/-- TABLE_WRITE: index, whether the intent is UNDEFINE, and the fields. -/
def parseTableWrite : List Byte → Option (TargetId × Bool × Settings)
  | index :: intent :: fields =>
    match targetOfByte index, boolOfByte intent, (RawSettings.ofBytes fields).bind RawSettings.check with
    | some t, some undefine, some c => some (t, undefine, c)
    | _, _, _ => none
  | _ => none

/-- The actions of TARGET_CONTROL. -/
inductive TargetAction where
  | online | offline | quarantine
  deriving DecidableEq, Repr

/-- TARGET_CONTROL: index and action (R19). -/
def parseTargetControl : List Byte → Option (TargetId × TargetAction)
  | [index, action] =>
    match targetOfByte index with
    | some t =>
      if action = 0 then some (t, .online) else if action = 1 then some (t, .offline)
      else if action = 2 then some (t, .quarantine) else none
    | none => none
  | _ => none

/-- LEASE: index, duration 1 to 60000, and whether NO_WAIT is set (R52). -/
def parseLease : List Byte → Option (TargetId × Nat × Bool)
  | [index, hi, lo, option] =>
    match targetOfByte index, boolOfByte option with
    | some t, some noWait =>
      if 1 ≤ ofBe16 hi lo ∧ ofBe16 hi lo ≤ 60000 then some (t, ofBe16 hi lo, noWait) else none
    | _, _ => none
  | _ => none

/-- LANE_CONFIG: lane, speed and alert input enabled (R112). -/
def parseLaneConfig : List Byte → Option (LaneId × Speed × Bool)
  | [lane, speed, enabled] =>
    match laneOfByte lane, speedOfByte speed, boolOfByte enabled with
    | some x, some v, some e => some (x, v, e)
    | _, _, _ => none
  | _ => none

/-- HOST_CONFIG: the two enables, stop-on-fault and the chain window (R171). -/
def parseHostConfig : List Byte → Option (Bool × Bool × Bool × Nat)
  | [ce, ne, sof, window] =>
    match boolOfByte ce, boolOfByte ne, boolOfByte sof with
    | some a, some b, some c => if window = 0 then none else some (a, b, c, window.toNat)
    | _, _, _ => none
  | _ => none

/-- HOST_RIGHTS: host and rights record (R170). -/
def parseHostRights : List Byte → Option (HostId × Rights)
  | [host, rights, cap, lanes] =>
    match hostOfByte host, laneSetOfByte lanes with
    | some h, some ls =>
      if rights.toNat < 8 ∧ cap.toNat ≤ 3 then
        some (h, { admin := rights.getLsbD 0, lease := rights.getLsbD 1, trace := rights.getLsbD 2, cap := cap.toNat, lanes := ls })
      else none
    | _, _ => none
  | _ => none

/-- The settings a TRACE_CONTROL SET stores. -/
structure TraceSettings where
  mode : TraceMode
  trigger : Trigger
  postCount : Byte
  hosts : HostSet
  lanes : LaneSet
  faultsOnly : Bool
  deriving DecidableEq, Repr

/-- What a TRACE_CONTROL asks for. -/
inductive TraceAction where
  | set (c : TraceSettings)
  | clear
  | off
  deriving DecidableEq, Repr

/-- The bytes of a SET after the action byte (R207). -/
def RawTraceSet.toBytes (r : RawTraceSet) : List Byte :=
  [r.mode, r.trigKind, r.trigValue, r.postCount, r.hosts, r.lanes, r.faultsOnly]

/-- The checks of a SET's fields (R163, R206). -/
def RawTraceSet.check (r : RawTraceSet) : Option TraceSettings :=
  match traceModeOfByte r.mode, triggerOfBytes r.trigKind r.trigValue, hostSetOfByte r.hosts, laneSetOfByte r.lanes,
      boolOfByte r.faultsOnly with
  | some m, some t, some hs, some ls, some f =>
    some { mode := m, trigger := t, postCount := r.postCount, hosts := hs, lanes := ls, faultsOnly := f }
  | _, _, _, _, _ => none

/-- TRACE_CONTROL: SET takes eight bytes, any other action one (R206). -/
def parseTraceControl : List Byte → Option TraceAction
  | [a, m, tk, tv, pc, hs, ls, fo] =>
    if a = 0 then (RawTraceSet.check ⟨m, tk, tv, pc, hs, ls, fo⟩).map .set else none
  | [a] => if a = 1 then some .clear else if a = 2 then some .off else none
  | _ => none

/-- TRACE_READ: a two-byte index, 0 to 255 (R165). -/
def parseTraceRead : List Byte → Option Byte
  | [hi, lo] => if hi = 0 then some lo else none
  | _ => none

/-! ## Responses (R207, R208) -/

/-- The waiter hosts of a lease summary: three places, 0xFF for unused ones. -/
def waiterBytes (ws : List Waiter) : List Byte :=
  (ws.map (fun (w : Waiter) => byteOf w.host.val) ++ List.replicate 3 0xFF).take 3

/-- The milliseconds left of a lease: 0 when FREE or past its expiry time (R12). -/
def State.leaseMsLeft (s : State) (l : Lease) : Nat :=
  match l.state with
  | .free => 0
  | .held _ | .ending _ _ => s.msUntil l.expiry

/-- The lease summary of an entry, eight bytes (R207). -/
def State.leaseSummary (s : State) (t : TargetId) : List Byte :=
  let l := (s.entry t).lease
  [leaseStateByte l.state, hostByte l.state.holder] ++ be16 (BitVec.ofNat 16 (s.leaseMsLeft l)) ++
    [byteOf l.waiters.length] ++ waiterBytes l.waiters

/-- A completion record (R207). -/
def Completion.toBytes (r : Completion) : List Byte :=
  [r.tag, r.status.code, byteOf r.target.val, kindByte r.kind, markByte r.mark, byteOf r.attempts, byteOf r.written,
   boolByte r.pausedMark] ++ be32 r.finish ++ [byteOf r.readData.length] ++ r.readData

/-- A notice record (R207). -/
def Notice.toBytes (n : Notice) : List Byte :=
  [noticeKindByte n.kind, subjectByte n.subject, n.detail, byteOf n.count] ++ be32 n.stamp

/-- A ring position, 23 bytes: the record, or the cleared values of an invalid position (R208). In the markers byte of a record the bits
that R207 does not name, 2 to 7, are sent as 0 (DESIGN CHOICE, log 30). -/
def traceRecordBytes : Option TraceRecord → List Byte
  | some r =>
    be16 r.seq ++ [0b01 ||| (boolByte r.tag.isSome <<< 1), runTypeByte r.runType, hostByte r.host, r.tag.getD 0,
      (r.target.map fun t => byteOf t.val).getD 0xFF, laneByte r.lane, kindByte r.kind, markByte r.mark, r.status.code,
      byteOf r.attempts, byteOf r.bytesOut, byteOf r.bytesIn] ++ be32 r.start ++ be32 r.stop ++ [0]
  | none => [0, 0, 0, 0, 0xFF, 0, 0xFF] ++ List.replicate 16 0

/-- The trace summary, 17 bytes (R207). -/
def Trace.summary (t : Trace) : List Byte :=
  [traceModeByte t.mode, traceStateByte t.state] ++ triggerBytes t.trigger ++
    [t.postCount, t.hosts.setWidth 8, t.lanes.setWidth 8, boolByte t.faultsOnly, t.write, byteOf t.wraps, boolByte t.holdsFault,
     boolByte t.trigIndex.isSome, t.trigIndex.getD 0xFF, byteOf t.postLeft] ++ be16 t.seq ++ [hostByte t.claimant]

/-- The TABLE_READ response, 22 bytes (R12, R207). -/
def State.tableReadBytes (s : State) (t : TargetId) : List Byte :=
  let e := s.entry t
  [byteOf t.val, entryStateByte e.state, byteOf e.faults] ++ e.cfg.toBytes ++ s.leaseSummary t

/-- The state and fault count of an entry, as TABLE_WRITE and TARGET_CONTROL answer them (R207). -/
def State.entryHealth (s : State) (t : TargetId) : List Byte :=
  [entryStateByte (s.entry t).state, byteOf (s.entry t).faults]

/-- The LANE_STATUS response, 14 bytes (R113, R207), with the line levels read when the command is taken (log 18). The bits that R207 does
not name, 2 to 7 of the phase byte and 3 to 7 of the levels byte, are sent as 0 (DESIGN CHOICE, log 30). -/
def State.laneStatusBytes (s : State) (x : LaneId) (clockHigh dataHigh : Bool) : List Byte :=
  let l := s.lane x
  [laneByte x, laneModeByte l.mode,
   boolByte (decide (l.mode = .running) && l.closing) ||| (boolByte (decide (l.mode = .recovery) && l.restart.isSome) <<< 1),
   speedByte l.speed, boolByte l.alertEnabled, boolByte l.masked,
   boolByte (!l.alertLow) ||| (boolByte clockHigh <<< 1) ||| (boolByte dataHigh <<< 2),
   boolByte l.run.isSome, hostByte (l.run.map (·.host)),
   (l.run.bind fun r => (s.runEntries x r).head?.map (·.desc.tag)).getD 0,
   match l.run with
   | some r => byteOf r.attempt
   | none => Config.noRunAttempt,
   byteOf l.recoveryNumber, hostByte l.lastGranted, boolByte l.grantOwed]

/-- The window time left in one byte (log 7). -/
def windowByte (ms : Nat) : Byte := if ms ≤ 255 then byteOf ms else Config.windowOver

/-- The chain fields of HOST_STATUS: open, count, lane, window time left (R172, R207). -/
def State.chainBytes (s : State) : Option OpenChain → List Byte
  | some ch => [1, byteOf ch.count, laneByte ch.lane, windowByte (s.msUntil ch.deadline)]
  | none => [0, Config.noChainCount, Config.noChainLane, Config.noChainMsLeft]

/-- The HOST_STATUS response, 27 bytes (R172, R207). -/
def State.hostStatusBytes (s : State) (h : HostId) : List Byte :=
  let c := s.host h
  [byteOf h.val, boolByte c.attached, rightsByte c.rights, byteOf c.rights.cap, c.rights.lanes.setWidth 8, byteOf c.credits,
   byteOf c.queuedCount, byteOf c.runningCount, byteOf c.discardedRunning, byteOf c.cq.length, byteOf c.nq.length,
   boolByte c.complEnable, boolByte c.noticeEnable, boolByte c.stopOnFault, byteOf c.window, boolByte c.paused] ++
    s.chainBytes c.chain ++
    [boolByte c.presentedTag.isSome, c.presentedTag.getD 0, boolByte c.presentedNotice, boolByte c.overflow,
     boolByte c.overflowSeen, boolByte (!s.attn h), boolByte (decide (s.trace.claimant = some h))]

/-- The DEVICE_INFO response (R190, R207). The bits 6 and 7 of the straps byte, which R207 does not name, are sent as 0 (DESIGN CHOICE,
log 30). -/
def State.deviceInfoBytes (s : State) (h : HostId) : List Byte :=
  [0x04, 0x16, 0x01, byteOf h.val, loadStateByte s.loader.state,
   loadFailureByte (if s.loader.state = .loadFailed then s.loader.reason else none),
   byteOf s.straps.adm.val ||| (boolByte s.straps.imgen <<< 2) ||| (byteOf s.straps.imga.val <<< 3)] ++ be32 s.stamp

/-- The eight bits of a byte in the order they travel, the most significant first (R89, R179). -/
def msbFirst (b : Byte) : List Bool := [7, 6, 5, 4, 3, 2, 1, 0].map b.getLsbD

/-- The bytes of a response read from its second byte on: slot byte, status, exchange number, length, payload, CRC-8
(R181, R204). -/
def responseBytes (slot discarded : Byte) (status exch : Byte) (payload : List Byte) : List Byte :=
  let body := [status, exch, byteOf payload.length] ++ payload
  [slot ||| (discarded <<< 7)] ++ body ++ [crc8 body]

/-- What a response read delivers of a port's slot (R181). -/
def Port.readBytes (p : Port) : List Byte :=
  match p.slot with
  | .empty => responseBytes 0 0 0 0 []
  | .pending => responseBytes 1 (boolByte p.discarded) 0 0 []
  | .ready r => responseBytes 2 (boolByte r.discarded) r.status.code r.exch r.payload

end Sys2Proof.Machine
end

