-- ==== Sys2Proof/Machine/TraceUnit.lean ====
section
/-! DEFINITION. The Trace Unit (08_transaction_trace.md): offers, filter, storing, triggers, the stop, the claim and the
trace commands' own parts. -/

namespace Sys2Proof.Machine

/-- An owning block's answer: response status and payload (R189). -/
structure Reply where
  status : Status
  payload : List Byte
  deriving DecidableEq, Repr

/-- A refusal or answer without payload. -/
def plain (st : Status) : Reply := { status := st, payload := [] }

/-- The storage filter (R154). -/
def Trace.passes (t : Trace) (r : TraceRecord) : Bool :=
  r.host.all (hostIn t.hosts) && laneIn t.lanes r.lane && (!t.faultsOnly || r.status.isFault)

/-- A record meets a trigger condition (R156). -/
def Trigger.met (g : Trigger) (r : TraceRecord) : Bool :=
  match g with
  | .anyFault => r.status.isFault
  | .status st => decide (r.status = st)
  | .target t => decide (r.target = some t)
  | .host h => decide (r.host = some h)

/-- Storing a record at the write index (R155). -/
def Trace.store (t : Trace) (r : TraceRecord) : Trace :=
  { t with
    ring := t.ring.set t.write.toNat (some r) t.write.isLt
    write := t.write + 1
    wraps := if t.write = 255 ∧ t.wraps < 255 then t.wraps + 1 else t.wraps
    holdsFault := t.holdsFault || r.status.isFault }

/-- What a record that passes the filter does in the present mode and state (R157 to R159), with the detail of the stop when
it stops the trace (R160). -/
def Trace.take (t : Trace) (r : TraceRecord) : Trace × Option Byte :=
  match t.state with
  | .off | .stopped => (t, none)
  | .armed =>
    if t.trigger.met r then ({ t.store r with state := .running, trigIndex := some t.write }, none) else (t, none)
  | .running =>
    match t.mode with
    | .continuous => (t.store r, none)
    | .stopAfterTrigger =>
      if t.trigger.met r then
        if t.postCount = 0 then
          ({ t.store r with state := .stopped, trigIndex := some t.write, postLeft := 0 }, some triggerDoneByte)
        else ({ t.store r with state := .post, trigIndex := some t.write, postLeft := t.postCount.toNat }, none)
      else (t.store r, none)
    | .startAtTrigger =>
      if t.write = 255 then ({ t.store r with state := .stopped, postLeft := 0 }, some fullByte) else (t.store r, none)
  | .post =>
    if t.postLeft ≤ 1 then ({ t.store r with state := .stopped, postLeft := 0 }, some triggerDoneByte)
    else ({ t.store r with postLeft := t.postLeft - 1 }, none)

/-- One offer: dropped when OFF or STOPPED; otherwise it takes a sequence number and is judged (R153, R154). -/
def Trace.offer (t : Trace) (r : TraceRecord) : Trace × Option Byte :=
  if t.state = .off ∨ t.state = .stopped then (t, none)
  else
    let numbered := { r with seq := t.seq }
    let counted := { t with seq := t.seq + 1 }
    if t.passes numbered then counted.take numbered else (counted, none)

/-- Offers one record to the Trace Unit; a stop is told to the claimant (R160). -/
def State.offer (s : State) (r : TraceRecord) : State :=
  let (t, stop) := s.trace.offer r
  let s := { s with trace := t }
  match stop, t.claimant with
  | some detail, some h => s.notify h .traceStopped .none detail
  | _, _ => s

/-- Offers a batch in order (R153). -/
def State.offerAll (s : State) (rs : List TraceRecord) : State := rs.foldl State.offer s

/-- The start state of a mode (08 section 8.5). -/
def TraceMode.startState : TraceMode → TraceState
  | .continuous | .stopAfterTrigger => .running
  | .startAtTrigger => .armed

/-- CLEAR (R164). -/
def Trace.clear (t : Trace) : Trace :=
  { t with
    ring := Vector.replicate 256 none, write := 0, wraps := 0, holdsFault := false, trigIndex := none, postLeft := 0, seq := 0
    state := t.mode.startState }

/-- SET: stores the settings and clears (R163). -/
def Trace.set (t : Trace) (c : TraceSettings) : Trace :=
  Trace.clear { t with mode := c.mode, trigger := c.trigger, postCount := c.postCount, hosts := c.hosts, lanes := c.lanes,
                       faultsOnly := c.faultsOnly }

/-- OFF (R164). -/
def Trace.off (t : Trace) : Trace := { t with state := .off }

/-- TRACE_CLAIM at the Trace Unit (R161). -/
def traceClaim (h : HostId) (p : List Byte) (s : State) : State × Reply :=
  match (oneByte p).bind boolOfByte with
  | none => (s, plain .badField)
  | some force =>
    if force && !(s.host h).rights.admin then (s, plain .noRight)
    else
      let taken := { s with trace := { s.trace with claimant := some h } }
      match s.trace.claimant with
      | none => (taken, ⟨.done, taken.trace.summary⟩)
      | some g =>
        if g = h ∨ force then (taken, ⟨.done, taken.trace.summary⟩) else (s, ⟨.claimed, s.trace.summary⟩)

/-- Gives up a claim of host h (R162). -/
def State.dropClaim (s : State) (h : HostId) : State :=
  if s.trace.claimant = some h then { s with trace := { s.trace with claimant := none } } else s

/-- TRACE_RELEASE (R162). -/
def traceRelease (h : HostId) (s : State) : State × Reply :=
  if s.trace.claimant = some h then (s.dropClaim h, plain .done) else (s, plain .notClaimant)

/-- TRACE_CONTROL at the Trace Unit (R163, R164). -/
def traceControl (h : HostId) (p : List Byte) (s : State) : State × Reply :=
  if s.trace.claimant ≠ some h then (s, plain .notClaimant)
  else
    match parseTraceControl p with
    | none => (s, plain .badField)
    | some a =>
      let t := match a with
        | .set c => s.trace.set c
        | .clear => s.trace.clear
        | .off => s.trace.off
      ({ s with trace := t }, ⟨.done, t.summary⟩)

/-- TRACE_READ at the Trace Unit (R165). -/
def traceRead (p : List Byte) (s : State) : State × Reply :=
  match parseTraceRead p with
  | none => (s, plain .badField)
  | some i => (s, ⟨.done, [0, i] ++ traceRecordBytes (s.trace.ring[i.toNat]'i.isLt) ++ s.trace.summary⟩)

end Sys2Proof.Machine
end

