-- ==== Sys2Proof/Machine/Completions.lean ====
section
/-! DEFINITION. The commands on a host's Completion Queue and Notice Queue (07_completions_notices_and_attention.md). -/

namespace Sys2Proof.Machine

/-- FETCH_COMPLETION (R136). -/
def fetchCompletionCommand (h : HostId) (s : State) : State × Reply :=
  match (s.host h).cq with
  | [] => (s, plain .empty)
  | r :: rs =>
    (s.updHost h fun c => { c with presentedTag := some r.tag }, ⟨.done, byteOf (rs.length + 1) :: r.toBytes⟩)

/-- RETIRE (R137). The marker names the head record while it is present (R135). -/
def retireCommand (h : HostId) (p : List Byte) (s : State) : State × Reply :=
  match oneByte p with
  | none => (s, plain .badField)
  | some tag =>
    match (s.host h).presentedTag, (s.host h).cq with
    | some shown, _ :: rs =>
      if shown = tag then
        let s' := s.updHost h fun c => { c with cq := rs, credits := c.credits + 1, presentedTag := none }
        (s', ⟨.done, [byteOf (s'.host h).credits, byteOf rs.length]⟩)
      else (s, plain .tagMismatch)
    | _, _ => (s, plain .notPresented)

/-- FETCH_NOTICE (R145). -/
def fetchNoticeCommand (h : HostId) (s : State) : State × Reply :=
  match (s.host h).nq with
  | [] => (s, ⟨.empty, [boolByte (s.host h).overflow]⟩)
  | n :: ns =>
    (s.updHost h fun c => { c with presentedNotice := true, overflowSeen := c.overflow },
      ⟨.done, [boolByte (s.host h).overflow, byteOf (ns.length + 1)] ++ n.toBytes⟩)

/-- ACK_NOTICE (R146). -/
def ackNoticeCommand (h : HostId) (s : State) : State × Reply :=
  match (s.host h).presentedNotice, (s.host h).nq with
  | true, _ :: ns =>
    let s' := s.updHost h fun c =>
      { c with nq := ns, presentedNotice := false, overflow := c.overflow && !c.overflowSeen, overflowSeen := false }
    (s', ⟨.done, [boolByte (s'.host h).overflow, byteOf ns.length]⟩)
  | _, _ => (s, plain .notPresented)

end Sys2Proof.Machine
end

