-- ==== Sys2Proof/Machine/Leases.lean ====
section
/-! DEFINITION. The Lease Unit (03_target_leases.md): grants, lease ends, the wait list, and the lease commands' own parts. -/

namespace Sys2Proof.Machine

/-- The grant check on entry t, with the grant of the head waiter (R54, R55). -/
def State.grantCheck (s : State) (t : TargetId) : State :=
  match (s.entry t).lease.state, (s.entry t).lease.waiters with
  | .free, w :: ws =>
    if s.touchedByOther t w.host then s
    else
      (s.updLease t fun _ => { state := .held w.host, expiry := s.expiry w.duration, waiters := ws }).notify w.host .leaseGranted
        (.target t) 0
  | _, _ => s

/-- The entry names t and carries REQUIRE_LEASE (R58). -/
def leaseWork (t : TargetId) (e : SubEntry) : Bool := decide (e.desc.target = t) && e.desc.requireLease

/-- The lease of t is told to be FREE, the former holder's dependent work ends and its notice is sent: the finish up to its
grant check (R57 steps 1 to 3, R58, R59). -/
def State.leaseFree (s : State) (t : TargetId) (h : HostId) (r : EndReason) : State :=
  let freed := s.updLease t fun l => { l with state := .free }
  let searched := freed.endWork h (fun g => g.any (leaseWork t)) fun e => if leaseWork t e then .leaseLost else .chainBroken
  if r = .released then searched else searched.notify h .leaseEnded (.target t) (endReasonByte r)

/-- The finish of a lease (R57). -/
def State.leaseFinish (s : State) (t : TargetId) (h : HostId) (r : EndReason) : State := (s.leaseFree t h r).grantCheck t

/-- A rule ends the lease of t with reason r (R56). -/
def State.leaseEnd (s : State) (t : TargetId) (r : EndReason) : State :=
  match (s.entry t).lease.state with
  | .held h => if s.touchedBy t h then s.updLease t fun l => { l with state := .ending h r } else s.leaseFinish t h r
  | .ending _ _ | .free => s

/-- The end of a run of host h that touched t (R54, R57). The run is no longer in flight in `s`. -/
def State.leaseRunEnd (s : State) (h : HostId) (t : TargetId) : State :=
  match (s.entry t).lease.state with
  | .ending g r => if g = h then s.leaseFinish t g r else s
  | .held _ | .free => s.grantCheck t

/-- The host is at the head of the wait list. -/
def Lease.headIs (l : Lease) (h : HostId) : Bool := decide (l.waiters.head?.map (·.host) = some h)

/-- Takes a host's item out of the wait list; the items behind it move up (R50). -/
def Lease.without (l : Lease) (h : HostId) : Lease := { l with waiters := l.waiters.filter fun w => decide (w.host ≠ h) }

/-- A waiter withdraws; a grant check follows when it was the head (R54, R60). -/
def State.withdraw (s : State) (t : TargetId) (h : HostId) : State :=
  let s' := s.updLease t (·.without h)
  if (s.entry t).lease.headIs h then s'.grantCheck t else s'

/-- What TARGET_CONTROL OFFLINE does to a lease record: the lease ends with reason OFFLINE and every waiter is removed with its
notice (R63). The waiters leave before the finish makes its grant check, which finds an empty list (log 16). -/
def State.leaseOffline (s : State) (t : TargetId) : State :=
  let waiters := (s.entry t).lease.waiters
  let emptied := s.updLease t fun l => { l with waiters := [] }
  let told := waiters.foldl (fun s w => s.notify w.host .leaseEnded (.target t) (endReasonByte .offline)) emptied
  told.leaseEnd t .offline

/-- What the teardown of host h does to the lease record of t (R64). -/
def State.leaseTeardown (s : State) (h : HostId) (t : TargetId) : State :=
  let s' := s.updLease t (·.without h)
  match (s.entry t).lease.state with
  | .held g => if g = h then s'.leaseEnd t .released else s'
  | .ending g _ => if g = h then s'.updLease t fun l => { l with state := .ending g .released } else s'
  | .free => if (s.entry t).lease.headIs h then s'.grantCheck t else s'

/-- The cases of R53 for a LEASE of host h that passed the checks of R52. -/
def leaseDecide (h : HostId) (t : TargetId) (d : Nat) (noWait : Bool) (s : State) : State × Reply :=
  let l := (s.entry t).lease
  let held := s.updLease t fun l => { l with state := .held h, expiry := s.expiry d }
  let queued := s.updLease t fun l => { l with waiters := l.waiters ++ [{ host := h, duration := d }] }
  if l.state.heldBy h then (held, ⟨.done, held.leaseSummary t⟩)
  else if l.state.holder = some h then (s, plain .leaseEnding)
  else if l.waits h then (s, plain .alreadyWaiting)
  else if l.state = .free ∧ l.waiters = [] ∧ s.touchedByOther t h = false then (held, ⟨.done, held.leaseSummary t⟩)
  else if noWait then (s, plain .leased)
  else if l.waiters.length ≥ Config.waitListCapacity then (s, plain .leased)
  else (queued, ⟨.pending, queued.leaseSummary t⟩)

/-- LEASE at the Lease Unit (R52, R53). -/
def leaseCommand (h : HostId) (p : List Byte) (s : State) : State × Reply :=
  match parseLease p with
  | none => (s, plain .badField)
  | some (t, d, noWait) =>
    if (s.entry t).state = .undefined then (s, plain .badEntry)
    else if !hostIn (s.entry t).cfg.access h then (s, plain .noRight)
    else if (s.entry t).state = .offline then (s, plain .targetOffline)
    else leaseDecide h t d noWait s

/-- RELEASE (R60). -/
def releaseCommand (h : HostId) (p : List Byte) (s : State) : State × Reply :=
  match parseIndex p with
  | none => (s, plain .badField)
  | some t =>
    let l := (s.entry t).lease
    if l.state.heldBy h then
      let s' := s.leaseEnd t .released
      (s', ⟨.done, s'.leaseSummary t⟩)
    else if l.state.holder = some h then (s, ⟨.done, s.leaseSummary t⟩)
    else if l.waits h then
      let s' := s.withdraw t h
      (s', ⟨.done, s'.leaseSummary t⟩)
    else (s, plain .notHolder)

/-- LEASE_REVOKE (R61). -/
def leaseRevoke (p : List Byte) (s : State) : State × Reply :=
  match parseIndex p with
  | none => (s, plain .badField)
  | some t =>
    if (s.entry t).state = .undefined then (s, plain .badEntry)
    else
      let s' := s.leaseEnd t .revoked
      (s', ⟨.done, s'.leaseSummary t⟩)

/-- The tick that a HELD lease expires at has been reached: it ends EXPIRED (R62). -/
def State.leaseExpire (s : State) (t : TargetId) : State :=
  match (s.entry t).lease.state with
  | .held _ => if s.reached (s.entry t).lease.expiry then s.leaseEnd t .expired else s
  | .ending _ _ | .free => s

end Sys2Proof.Machine
end

