-- ==== Sys2Proof/Machine/Table.lean ====
section
/-! DEFINITION. The Target Table (01_the_target_table.md): quarantine, fault counting, probe restore, and the table commands'
own parts. -/

namespace Sys2Proof.Machine

/-- Work to t that quarantine ends: any element to t whose kind is not PROBE (R9). -/
def quarantineHit (t : TargetId) (g : List SubEntry) : Bool :=
  g.any fun e => decide (e.desc.target = t ∧ e.desc.kind ≠ .probe)

/-- The status of an element that an event at entry t ends: `st` for t itself, CHAIN_BROKEN for the others (R9, R22). -/
def endedBy (t : TargetId) (st : CStatus) (e : SubEntry) : CStatus := if e.desc.target = t then st else .chainBroken

/-- Sends a notice about entry t to its subscribers (R17, R141). -/
def State.tellSubscribers (s : State) (t : TargetId) (k : NoticeKind) (detail : Byte) : State :=
  s.notifyAll (hostIn (s.entry t).cfg.subscribers) k (.target t) detail

/-- Entry into quarantine (R8, R9). -/
def State.quarantine (s : State) (t : TargetId) : State :=
  let marked := s.updEntry t fun e => { e with state := .quarantined }
  let told := marked.tellSubscribers t .quarantined 0
  told.endWorkAll (quarantineHit t) (endedBy t .targetQuarantined)

/-- A fault is counted against a threshold in use (R6). -/
def State.countFault (s : State) (t : TargetId) (threshold : Nat) : State :=
  let n := if threshold = 0 ∨ (s.entry t).faults = threshold then (s.entry t).faults else (s.entry t).faults + 1
  let counted := s.updEntry t fun e => { e with faults := n }
  let judged :=
    if threshold ≠ 0 ∧ n = threshold ∧ (s.entry t).state = .online then counted.quarantine t else counted
  judged.updEntry t fun e => { e with faults := min e.faults e.cfg.threshold }

/-- A PROBE element that ended OK restores a QUARANTINED entry (R11). -/
def State.probeRestore (s : State) (t : TargetId) : State :=
  if (s.entry t).state = .quarantined then
    (s.updEntry t fun e => { e with state := .online }).tellSubscribers t .restored 0
  else s

/-- A final status is applied to the entry's fault count (R5, R7). `probe` holds for a PROBE element of a run. -/
def State.applyStatus (s : State) (t : TargetId) (st : CStatus) (probe : Bool) (threshold : Nat) : State :=
  match st with
  | .ok =>
    let cleared := s.updEntry t fun e => { e with faults := 0 }
    if probe then cleared.probeRestore t else cleared
  | .addrNack | .stretchTimeout => s.countFault t threshold
  | .dataNack | .arbLost | .laneFaulted | .chainBroken | .cancelled | .expired | .leaseLost | .targetQuarantined
  | .targetOffline | .chainAbandoned => s

/-- TABLE_READ (R12). -/
def tableRead (p : List Byte) (s : State) : State × Reply :=
  match parseIndex p with
  | none => (s, plain .badField)
  | some t => (s, ⟨.done, s.tableReadBytes t⟩)

/-- A TABLE_WRITE is disruptive (R14). -/
def State.disruptive (s : State) (t : TargetId) (undefine : Bool) (c : Settings) : Bool :=
  decide ((s.entry t).state ≠ .undefined) &&
    (undefine || decide (c.lane ≠ (s.entry t).cfg.lane) || decide (c.address ≠ (s.entry t).cfg.address))

/-- Another defined entry has this lane and address (R15). -/
def State.duplicateOf (s : State) (t : TargetId) (c : Settings) : Bool :=
  allTargets.any fun u =>
    decide (u ≠ t ∧ (s.entry u).state ≠ .undefined ∧ (s.entry u).cfg.lane = c.lane ∧ (s.entry u).cfg.address = c.address)

/-- The entry after an accepted TABLE_WRITE (R16). -/
def TableEntry.written (e : TableEntry) (undefine : Bool) (c : Settings) : TableEntry :=
  if undefine then { e with cfg := c, state := .undefined, faults := 0 }
  else if e.state = .undefined then { e with cfg := c, state := .online, faults := 0 }
  else { e with cfg := c, faults := min e.faults c.threshold }

/-- An accepted TABLE_WRITE with its notices (R16, R18). -/
def State.writeEntry (s : State) (t : TargetId) (undefine : Bool) (c : Settings) : State :=
  (s.updEntry t (·.written undefine c)).notifyAll
    (fun h => hostIn (s.entry t).cfg.subscribers h || hostIn c.subscribers h) .tableChanged (.target t) 0

/-- TABLE_WRITE at the Target Table (R13). -/
def tableWrite (p : List Byte) (s : State) : State × Reply :=
  match parseTableWrite p with
  | none => (s, plain .badField)
  | some (t, undefine, c) =>
    if s.disruptive t undefine c && s.inUse t then (s, plain .entryInUse)
    else if !undefine && s.duplicateOf t c then (s, plain .duplicateAddress)
    else
      let s' := s.writeEntry t undefine c
      (s', ⟨.done, s'.entryHealth t⟩)

/-- TARGET_CONTROL ONLINE on a defined entry (R20). -/
def State.controlOnline (s : State) (t : TargetId) : State :=
  let up := s.updEntry t fun e => { e with state := .online, faults := 0 }
  match (s.entry t).state with
  | .quarantined => up.tellSubscribers t .restored 0
  | .offline => up.tellSubscribers t .tableChanged 0
  | .online | .undefined => up

/-- TARGET_CONTROL QUARANTINE on a defined entry (R21). -/
def State.controlQuarantine (s : State) (t : TargetId) : State :=
  if (s.entry t).state = .quarantined then s else s.quarantine t

/-- TARGET_CONTROL OFFLINE on a defined entry (R22). -/
def State.controlOffline (s : State) (t : TargetId) : State :=
  if (s.entry t).state = .offline then s
  else
    let down := s.updEntry t fun e => { e with state := .offline }
    let ended := down.endWorkAll (fun g => g.any fun e => decide (e.desc.target = t)) (endedBy t .targetOffline)
    (ended.leaseOffline t).tellSubscribers t .tableChanged 0

/-- TARGET_CONTROL at the Target Table (R19). -/
def targetControl (p : List Byte) (s : State) : State × Reply :=
  match parseTargetControl p with
  | none => (s, plain .badField)
  | some (t, a) =>
    if (s.entry t).state = .undefined then (s, plain .badEntry)
    else
      let s' := match a with
        | .online => s.controlOnline t
        | .offline => s.controlOffline t
        | .quarantine => s.controlQuarantine t
      (s', ⟨.done, s'.entryHealth t⟩)

end Sys2Proof.Machine
end

