-- ==== Sys2Proof/Machine/Submission.lean ====
section
/-! DEFINITION. Descriptors, credits and Submission Queues (02_descriptors_credits_and_submission_queues.md): SUBMIT's checks
and acceptance, CANCEL, RESUME, wait deadlines and the chain window. -/

namespace Sys2Proof.Machine

/-- The status of the first check that fails. -/
def firstRefusal (checks : List (Bool × Status)) : Option Status := (checks.find? (·.1)).map (·.2)

/-- The mark continues an open chain. -/
def ChainMark.continues (m : ChainMark) : Bool := decide (m = .middle ∨ m = .last)

/-- Checks 2 to 13 of SUBMIT in order; check 1 is the decoding of the payload (R32). -/
def submitRefusal (h : HostId) (d : Descriptor) (s : State) : Option Status :=
  let c := s.host h
  let e := s.entry d.target
  firstRefusal [
    (decide (e.state = .undefined), .badEntry),
    (!hostIn e.cfg.access h || !laneIn c.rights.lanes e.cfg.lane, .noRight),
    (decide ((s.lane e.cfg.lane).mode = .faulted), .laneDown),
    (decide (e.state = .offline), .targetOffline),
    (decide (e.state = .quarantined ∧ d.kind ≠ .probe), .targetQuarantined),
    (c.tagOpen d.tag, .tagInUse),
    (if d.mark.continues then c.chain.isNone else c.chain.isSome, .chainOrder),
    (d.mark.continues && decide (c.chain.map (·.lane) ≠ some e.cfg.lane), .laneMismatch),
    (d.mark.continues && decide (Config.chainCapacity ≤ (c.chain.map (·.count)).getD 0), .chainLong),
    (d.requireLease && !e.lease.state.heldBy h, .notHolder),
    (d.noWait && e.lease.state.heldByOther h, .leased),
    (decide (c.credits = 0), .noCredit)]

/-- The submission entry of an accepted descriptor (R27). `before` is the number of elements the open chain holds. -/
def newEntry (d : Descriptor) (before : Nat) (deadline : Nat) : SubEntry :=
  { desc := d, deadline := if d.waitLimit = 0 then none else some deadline, bypass := 0,
    element := match d.mark with
      | .solo => none
      | .first => some 1
      | .middle | .last => some (before + 1)
    state := .queued }

/-- The chain-assembly record after an accepted element (R34, R35). -/
def chainAfter (m : ChainMark) (lane : LaneId) (deadline : Nat) (before : Option OpenChain) : Option OpenChain :=
  match m with
  | .solo => before
  | .first => some { count := 1, lane := lane, deadline := deadline }
  | .middle => before.map fun ch => { ch with count := ch.count + 1 }
  | .last => none

/-- Acceptance of a descriptor (R33). -/
def State.acceptDescriptor (s : State) (h : HostId) (d : Descriptor) : State :=
  s.updHost h fun c =>
    { c with
      sq := c.sq ++ [newEntry d ((c.chain.map (·.count)).getD 0) (s.expiry d.waitLimit)]
      credits := c.credits - 1
      chain := chainAfter d.mark (s.entry d.target).cfg.lane (s.expiry c.window) c.chain }

/-- A SUBMIT answer: the status with the host's free credits (R31, R207). -/
def creditsReply (st : Status) (h : HostId) (s : State) : Reply := ⟨st, [byteOf (s.host h).credits]⟩

/-- SUBMIT at the Submission Queue (R32, R33). -/
def submitCommand (h : HostId) (p : List Byte) (s : State) : State × Reply :=
  match parseDescriptor p with
  | none => (s, creditsReply .badField h s)
  | some d =>
    match submitRefusal h d s with
    | some st => (s, creditsReply st h s)
    | none =>
      let s' := s.acceptDescriptor h d
      (s', creditsReply .done h s')

/-- The entry carries the tag. -/
def SubEntry.tagged (e : SubEntry) (tag : Byte) : Bool := decide (e.desc.tag = tag)

/-- CANCEL (R41). -/
def cancelCommand (h : HostId) (p : List Byte) (s : State) : State × Reply :=
  match oneByte p with
  | none => (s, plain .badField)
  | some tag =>
    if (s.host h).sq.any (fun e => e.queued && e.tagged tag) then
      (s.endWork h (fun g => g.any (·.tagged tag)) fun _ => .cancelled, plain .done)
    else if (s.host h).sq.any (·.tagged tag) then (s, plain .tooLate)
    else (s, plain .unknownTag)

/-- RESUME (R48). -/
def resumeCommand (h : HostId) (s : State) : State × Reply :=
  (s.updHost h fun c => { c with paused := false }, plain .done)

/-- The entry's wait deadline has been reached (R38). -/
def State.overdue (s : State) (e : SubEntry) : Bool := e.deadline.any s.reached

/-- The wait deadline of a QUEUED entry of host h is reached: the entry ends EXPIRED, or its chain ends, with EXPIRED for the
elements whose deadline is reached and CHAIN_BROKEN for the others (R38, R39). -/
def State.waitDeadline (s : State) (h : HostId) (tag : Byte) : State :=
  s.endWork h (fun g => g.any fun e => e.tagged tag && s.overdue e) fun e => if s.overdue e then .expired else .chainBroken

/-- The window of an open chain runs out: the chain is abandoned (R35). -/
def State.windowExpiry (s : State) (h : HostId) : State :=
  match (s.host h).chain with
  | some ch =>
    if s.reached ch.deadline then
      (s.updHost h fun c => { c with chain := none }).endWork h isOpen fun _ => .chainAbandoned
    else s
  | none => s

end Sys2Proof.Machine
end

