-- ==== Sys2Proof/Machine/Runs.lean ====
section
/-! DEFINITION. Attempts and the end of a run (05_lane_engine_and_bus_runs.md sections 5.3 and 5.4). -/

namespace Sys2Proof.Machine

/-! ## Lane transitions -/

/-- The lane goes IDLE, where both lines read high (R88). -/
def Lane.toIdle (l : Lane) : Lane := { l with mode := .idle, closing := false, clockLowFrom := none, dataLowFrom := none }

/-- A transfer begins now, on lines that read high: from here on the levels are those of the wires, and a line that stays low is
timed from now at the earliest (R89, R107). -/
def Lane.onLines (l : Lane) (now : Nat) : Lane := { l with clockLowFrom := some now, dataLowFrom := some now }

/-- The lane goes FOREIGN at a moment when a line reads low; the timing of the lines goes on (R105, R107). -/
def Lane.toForeign (l : Lane) (now : Nat) : Lane := { l with mode := .foreign, closing := false, lowSeen := now }

/-- The closing phase after a clock hold that began at `since`; its stuck timing goes on without a break (R97, R107, R111). -/
def Lane.toClosing (l : Lane) (since : Nat) : Lane :=
  { l with closing := true, clockLowFrom := some since, dataLowFrom := some (l.dataLowFrom.getD since) }

/-- The lane becomes FAULTED (R110). -/
def Lane.toFaulted (l : Lane) : Lane := { l with mode := .faulted, closing := false, recovery := none }

/-- The next attempt of the current run begins: the attempt number rises by 1 and the results start afresh (R93, R99). -/
def Lane.nextAttempt (l : Lane) (now : Nat) : Lane :=
  { l.onLines now with
    mode := .running, closing := false
    run := l.run.map fun r => { r with attempt := r.attempt + 1, results := [], stoppedAt := 0 } }

/-! ## Results of an attempt (R93 to R100) -/

/-- The result of an element that was carried whole (R94, R100). -/
def okResult (e : SubEntry) (reads : List Byte) : ElemResult :=
  { status := .ok, written := e.desc.writeData.length, reads := reads }

/-- The result of an element after the failing one (R100). -/
def brokenResult : ElemResult := { status := .chainBroken, written := 0, reads := [] }

/-- The results of an attempt that stopped at element k with result `here`. -/
def stoppedResults (es : List SubEntry) (k : Nat) (done : List (List Byte)) (here : ElemResult) : List ElemResult :=
  es.zipIdx.map fun (e, i) => if i < k then okResult e (done.getD i []) else if i = k then here else brokenResult

/-- The read data reported for the first elements is as long as those elements ask for. -/
def readsFit (es : List SubEntry) (reads : List (List Byte)) : Bool :=
  decide (reads.map List.length = es.map fun e => e.desc.readLen)

/-- The run whose attempt is on the wires of lane x, with its entries: the lane is RUNNING with a current run (R88). -/
def State.onWires (s : State) (x : LaneId) : Option (Run × List SubEntry) :=
  match (s.lane x).run with
  | some r => if (s.lane x).mode = .running then some (r, s.runEntries x r) else none
  | none => none

/-- The element at place k of an attempt on the wires, when the read data reported before it fits. -/
def State.elementAt (s : State) (x : LaneId) (k : Nat) (done : List (List Byte)) : Option (Run × List SubEntry × SubEntry) :=
  match s.onWires x with
  | some (r, es) =>
    match es[k]? with
    | some e => if readsFit (es.take k) done then some (r, es, e) else none
    | none => none
  | none => none

/-- The policy copy of element k (R17). -/
def Run.policy (r : Run) (k : Nat) : Policy := r.policies.getD k { retryBudget := 0, retryOnNack := false, stretch := 1, threshold := 0 }

/-- The result of element k in the last attempt. -/
def Run.result (r : Run) (k : Nat) : ElemResult := r.results.getD k brokenResult

/-- Fewer attempts than 1 + budget have been made; the budget is the first element's (R99). -/
def Run.attemptsLeft (r : Run) : Bool := decide (r.attempt < 1 + (r.policy 0).retryBudget)

/-- R99: another attempt follows ADDR_NACK. -/
def Run.retriesNack (r : Run) (es : List SubEntry) : Bool :=
  match es with
  | [e] => decide (e.desc.mark = .solo) && (r.policy 0).retryOnNack && !e.desc.noRetry && r.attemptsLeft
  | _ => false

/-- R99: another attempt follows ARB_LOST. -/
def Run.retriesLoss (r : Run) (es : List SubEntry) : Bool := es.all (fun e => !e.desc.noRetry) && r.attemptsLeft

/-! ## The end of a run (R101 to R103) -/

/-- The completion record of element k of a run (R101). -/
def runRecord (r : Run) (stamp : Stamp) (e : SubEntry) (k : Nat) : Completion :=
  { tag := e.desc.tag, status := (r.result k).status, target := e.desc.target, kind := e.desc.kind, mark := e.desc.mark,
    attempts := r.attempt, written := (r.result k).written, readData := (r.result k).reads, finish := stamp,
    pausedMark := false }

/-- The trace record offered for element k of a run (R103). -/
def runTraceRecord (x : LaneId) (r : Run) (stamp : Stamp) (e : SubEntry) (k : Nat) : TraceRecord :=
  { seq := 0, runType := .hostRun, host := some r.host, tag := some e.desc.tag, target := some e.desc.target, lane := x,
    kind := e.desc.kind, mark := e.desc.mark, status := (r.result k).status, attempts := r.attempt,
    bytesOut := (r.result k).written, bytesIn := (r.result k).reads.length, start := stampAt r.start, stop := stamp }

/-- The host's queues at the end of a run on lane x: the run's entries leave the Submission Queue; the records are appended, or
discarded with the credits returned when the host was torn down since the grant (R102, R175). -/
def HostCtx.endRun (c : HostCtx) (x : LaneId) (r : Run) (stamp : Stamp) : HostCtx :=
  let es := c.runningOn x
  let left := { c with sq := c.sq.filter fun (e : SubEntry) => !decide (e.state = WorkState.running x) }
  if r.discarded then
    { left with credits := c.credits + es.length, discardedRunning := c.discardedRunning - es.length }
  else left.appendRecords (es.zipIdx.map fun (e, k) => runRecord r stamp e k)

/-- The Target Table takes the final status of every element, in element order (R5). -/
def State.applyResults (s : State) (r : Run) (es : List SubEntry) : State :=
  es.zipIdx.foldl (fun s (e, k) =>
    s.applyStatus e.desc.target (r.result k).status (decide (e.desc.kind = .probe)) (r.policy k).threshold) s

/-- The targets of a run, each once, in element order. -/
def runTargets (es : List SubEntry) : List TargetId :=
  (es.map (·.desc.target)).foldl (fun seen t => if t ∈ seen then seen else seen ++ [t]) []

/-- The end of the current run r of lane x, with the results it holds (R102): the lane and the host's queues, the Target Table,
then `fault` (the search of a lane fault, R58 and R110), the Lease Unit, and after it the Trace Unit: a TRACE_STOPPED
notice follows the notices of the Lease Unit (DESIGN CHOICE, log 28). `after` is the lane's transition. -/
def State.endRun (s : State) (x : LaneId) (r : Run) (after : Lane → Lane) (fault : State → State) : State :=
  let es := s.runEntries x r
  let cleared := s.updLane x fun l => after { l with run := none }
  let queued := cleared.updHost r.host fun c => c.endRun x r s.stamp
  let counted := fault (queued.applyResults r es)
  let leased := (runTargets es).foldl (fun s t => s.leaseRunEnd r.host t) counted
  leased.offerAll (es.zipIdx.map fun (e, k) => runTraceRecord x r s.stamp e k)

/-- The current run ends with the results of the attempt that has just ended. -/
def State.endAttempt (s : State) (x : LaneId) (r : Run) (results : List ElemResult) (after : Lane → Lane) : State :=
  s.endRun x { r with results := results } after id

/-- The run waits in FOREIGN for its next attempt, holding the results of the one that failed (R95, R98, R99). -/
def State.waitForLane (s : State) (x : LaneId) (r : Run) (results : List ElemResult) (k : Nat) : State :=
  s.updLane x fun l => { l.toForeign s.elapsed with run := some { r with results := results, stoppedAt := k } }

/-! ## How attempts end -/

/-- Every byte was acknowledged and the data line reads high after the STOP: the run ends OK and the lane goes IDLE (R94). -/
def State.attemptSucceeds (s : State) (x : LaneId) (reads : List (List Byte)) : State :=
  match s.onWires x with
  | some (r, es) =>
    if readsFit es reads then
      s.endAttempt x r (es.zipIdx.map fun (e, i) => okResult e (reads.getD i [])) Lane.toIdle
    else s
  | none => s

/-- An address byte is answered NACK; `second` marks the read address of a WRITE_READ (R95, R99). `dataLow`: the STOP found the
data line low. -/
def State.addressRefused (s : State) (x : LaneId) (k : Nat) (done : List (List Byte)) (second dataLow : Bool) : State :=
  match s.elementAt x k done with
  | some (r, es, e) =>
    if second && !decide (e.desc.kind = .writeRead) then s
    else
      let results := stoppedResults es k done
        { status := .addrNack, written := if second then e.desc.writeData.length else 0, reads := [] }
      if r.retriesNack es then
        if dataLow then s.waitForLane x r results k else s.updLane x fun l => l.nextAttempt s.elapsed
      else s.endAttempt x r results (if dataLow then fun l => l.toForeign s.elapsed else Lane.toIdle)
  | none => s

/-- A write byte is answered NACK after `acked` were acknowledged; never retried (R96). -/
def State.writeRefused (s : State) (x : LaneId) (k : Nat) (done : List (List Byte)) (acked : Nat) (dataLow : Bool) : State :=
  match s.elementAt x k done with
  | some (r, es, e) =>
    if acked < e.desc.writeData.length then
      s.endAttempt x r (stoppedResults es k done { status := .dataNack, written := acked, reads := [] })
        (if dataLow then fun l => l.toForeign s.elapsed else Lane.toIdle)
    else s
  | none => s

/-- The last write byte of a WRITE element that is not the last of its attempt has been acknowledged: the engine's next act, the
repeated START, belongs to the element after it (R91). -/
def handsOn (es : List SubEntry) (e : SubEntry) (p : Progress) : Bool :=
  decide (e.desc.kind = .write ∧ p.elem + 1 < es.length ∧ 0 < p.written ∧ p.written = e.desc.writeData.length)

/-- The bytes element e of an attempt over `es` can have moved when it stopped: none before its address byte, then write bytes, then read
bytes (R90), with something of its own left to do (R91). Only an element after the first begins with a repeated START. -/
def progressFits (es : List SubEntry) (e : SubEntry) (p : Progress) : Bool :=
  decide (p.written ≤ e.desc.writeData.length ∧ p.part.length ≤ e.desc.readLen
    ∧ (p.part = [] ∨ p.written = e.desc.writeData.length)
    ∧ (p.opening = true → 0 < p.elem ∧ p.written = 0 ∧ p.part = [])) && !handsOn es e p

/-- A moment of the element at which R98 lets the engine lose arbitration, by the counts it leaves: among read bytes the NACK after the
last one alone, and among write bytes one that has a 1 bit; the release before a repeated START is the next element's. -/
def lossFits (es : List SubEntry) (e : SubEntry) (p : Progress) : Bool :=
  progressFits es e p && decide ((p.part = [] ∨ p.part.length = e.desc.readLen)
    ∧ (p.written = 0 ∨ e.desc.writeData[p.written]? ≠ some 0))

/-- The engine loses arbitration in an attempt: the run waits in FOREIGN for its next attempt, or ends (R98, R99). -/
def State.runLosesLane (s : State) (x : LaneId) (p : Progress) : State :=
  match s.elementAt x p.elem p.done with
  | some (r, es, e) =>
    if lossFits es e p then
      let results := stoppedResults es p.elem p.done { status := .arbLost, written := p.written, reads := p.part }
      if r.retriesLoss es then s.waitForLane x r results p.elem
      else s.endAttempt x r results fun l => l.toForeign s.elapsed
    else s
  | none => s

/-- A timing that started at microsecond `since` fits what is known of the line (R107). -/
def timingFits (bound : Option Nat) (since : Nat) : Bool := bound.all fun t => decide (t ≤ since)

/-- A clock hold on lane x since microsecond `since`, within the present transfer, exceeds a stretch limit in units of 100
microseconds (R92). -/
def State.heldBeyond (s : State) (x : LaneId) (since stretch : Nat) : Bool :=
  decide (since + stretch * 100 < s.elapsed) && timingFits (s.lane x).clockLowFrom since

/-- The element whose copied stretch limit is in use: the one whose address byte was sent most recently, or is being sent
(R92). -/
def Progress.limitOf (p : Progress) : Nat := if p.opening then p.elem - 1 else p.elem

/-- A clock hold exceeds the stretch limit in use: the run ends at the timeout and the lane enters its closing phase (R92,
R97). The counts of `p` can be those at which a byte was answered NACK: a hold in the STOP that follows is then taken under R97, with status
STRETCH_TIMEOUT, and not under R95 or R96, which give the element the NACK's status. The manual does not say which (DESIGN CHOICE, log
35). -/
def State.runStretched (s : State) (x : LaneId) (p : Progress) (since : Nat) : State :=
  match s.elementAt x p.elem p.done with
  | some (r, es, e) =>
    if progressFits es e p && s.heldBeyond x since (r.policy (Progress.limitOf p)).stretch then
      s.endAttempt x r
        (stoppedResults es p.elem p.done { status := .stretchTimeout, written := p.written, reads := p.part })
        fun l => l.toClosing since
    else s
  | none => s

end Sys2Proof.Machine
end

