-- ==== Sys2Proof/Machine/Ports.lean ====
section
/-! DEFINITION. Host ports (10_host_ports_and_command_frames.md sections 10.1 to 10.4): judging transfers and the response
slot. The rows that carry a frame are in Machine/Commands.lean. -/

namespace Sys2Proof.Machine

/-- The bytes of a frame that its frame check covers: code, exchange number, length, payload (R180). -/
def Frame.body (f : Frame) : List Byte := [f.code, f.exch, byteOf f.payload.length] ++ f.payload

/-- The frame check of a well-formed frame (R180, R204). -/
def Frame.check (f : Frame) : Byte := crc8 (Frame.body f)

/-- The bytes of a well-formed frame after its marker (R204). -/
def Frame.wire (f : Frame) : List Byte := Frame.body f ++ [Frame.check f]

/-- The frame that the bytes after the marker spell, absent when the frame is short, long or corrupt (R180). -/
def judgeFrame : List Byte → Option Frame
  | code :: exch :: len :: rest =>
    let f : Frame := { code := code, exch := exch, payload := rest.take len.toNat }
    if len.toNat ≤ Config.maxPayload ∧ rest.length = len.toNat + 1 ∧ rest.drop len.toNat = [Frame.check f] then some f else none
  | _ => none

/-- The exchange number a malformed frame carries, 0 when it ended before it (R180). -/
def receivedExch (bytes : List Byte) : Byte := (bytes[1]?).getD 0

/-- Changes a port. -/
def State.updPort (s : State) (h : HostId) (f : Port → Port) : State := s.updHost h fun c => { c with port := f c.port }

/-- The port takes part in a transfer whose chip select has been asserted for `lasted` microseconds: no device reset is asserted, its
host is ATTACHED, and the transfer began after the last device reset and the last rise of the host's reset line (R186, R193). -/
def State.hears (s : State) (h : HostId) (lasted : Nat) : Bool :=
  !s.resetAsserted && (s.host h).attached && decide ((s.host h).port.listensFrom + lasted ≤ s.elapsed)

/-- A transfer on the port of host h, at the release of chip select, or at the end of a response read's marker byte; one the port takes
no part in changes nothing (R179, R181, R186). -/
def State.onPort (s : State) (h : HostId) (lasted : Nat) (f : State → State) : State := if s.hears h lasted then f s else s

/-- SDOn sends 0x00 on each of the n bytes of a command frame or of an ignored transfer (R179, log 9). -/
def State.sdoZeros (s : State) (h : HostId) (n : Nat) : State := s.updPort h fun p => { p with sdo := List.replicate n 0 }

/-- An executed command's response is stored: the slot is READY and the repeat memory takes the frame, or becomes absent for
NOT_READY (R182, R183). -/
def Port.store (p : Port) (exch check : Byte) (r : Reply) : Port :=
  { p with
    slot := .ready { status := r.status, exch := exch, payload := r.payload, discarded := false }
    memory := if r.status = .notReady then none else some (exch, check) }

/-- FRAME_ERROR is stored (R180). -/
def Port.storeError (p : Port) (exch : Byte) : Port :=
  { p with slot := .ready { status := .frameError, exch := exch, payload := [], discarded := false }, memory := none }

/-- The response of a pending LANE_RESTART is stored, with the discarded marker as its indication (R184, R185). -/
def Port.storePending (p : Port) (exch check : Byte) (r : Reply) : Port :=
  { p with
    slot := .ready { status := r.status, exch := exch, payload := r.payload, discarded := p.discarded }
    memory := some (exch, check)
    discarded := false }

/-- A frame is discarded while the slot is PENDING (R184). -/
def Port.discard (p : Port) : Port := { p with discarded := true }

/-- A command frame of n bytes that is not well formed arrives (R180, R182, R184). -/
def State.takeMalformed (s : State) (h : HostId) (exch : Byte) (n : Nat) : State :=
  (s.updPort h fun p => if p.slot = .pending then p.discard else p.storeError exch).sdoZeros h n

/-- The frame repeats the frame of the stored response (R183). -/
def Port.repeats (p : Port) (f : Frame) : Bool :=
  match p.slot with
  | .ready _ => decide (p.memory = some (f.exch, Frame.check f))
  | .empty | .pending => false

end Sys2Proof.Machine
end

