-- ==== Sys2Proof/Machine/Recovery.lean ====
section
/-! DEFINITION. Foreign controllers, stuck lines, recovery sequences, lane faults and the end of a restart
(05_lane_engine_and_bus_runs.md sections 5.5 to 5.7). -/

namespace Sys2Proof.Machine

/-- Some element of the work has its target on lane x (R43). -/
def State.onLane (s : State) (x : LaneId) (g : List SubEntry) : Bool :=
  g.any fun e => decide ((s.entry e.desc.target).cfg.lane = x)

/-- The search of a lane fault: every QUEUED entry on the lane ends LANE_FAULTED (R43). -/
def State.faultSearch (s : State) (x : LaneId) : State := s.endWorkAll (s.onLane x) fun _ => .laneFaulted

/-- A notice to each ATTACHED host about a lane (R110, R114). -/
def State.tellAttached (s : State) (x : LaneId) (k : NoticeKind) : State :=
  s.notifyAll (fun h => (s.host h).attached) k (.lane x) 0

/-- The results of a waiting run that the lane fault ends: the element at which the last attempt stopped gets LANE_FAULTED
(R110). -/
def Run.faultedResults (r : Run) : List ElemResult :=
  r.results.zipIdx.map fun (e, i) => if i = r.stoppedAt then { e with status := .laneFaulted } else e

/-- The lane becomes FAULTED after a recovery sequence that the stuck limit started (R110). -/
def State.laneFault (s : State) (x : LaneId) : State :=
  let ended := match (s.lane x).run with
    | some r => s.endRun x { r with results := r.faultedResults } Lane.toFaulted fun s => s.faultSearch x
    | none => (s.updLane x Lane.toFaulted).faultSearch x
  ended.tellAttached x .laneFaulted

/-- The restart's response reaches its caller's slot, unless a teardown has discarded it (R114, R115, R185). -/
def State.answerRestart (s : State) (x : LaneId) (k : Restart) (st : Status) : State :=
  if k.live then
    s.updPort k.caller fun p => p.storePending k.exch k.check ⟨st, [laneByte x, laneModeByte (s.lane x).mode]⟩
  else s

/-- A successful restart: the lane goes IDLE, the latch is looked at again, LANE_RESTORED is sent and DONE is answered
(R114, R120). -/
def State.restartSucceeds (s : State) (x : LaneId) (k : Restart) : State :=
  let idle := s.updLane x fun l => { l.toIdle with restart := none, masked := l.masked && l.alertLow }
  (idle.tellAttached x .laneRestored).answerRestart x k .done

/-- A failed restart: the lane is FAULTED again, the search is made again and RESTART_FAILED is answered (R114). -/
def State.restartFails (s : State) (x : LaneId) (k : Restart) : State :=
  ((s.updLane x fun l => { l.toFaulted with restart := none }).faultSearch x).answerRestart x k .restartFailed

/-- The trace record of a recovery sequence (R109). -/
def recoveryTraceRecord (x : LaneId) (r : Recovery) (ok : Bool) (stamp : Stamp) : TraceRecord :=
  { seq := 0, runType := .recovery, host := none, tag := none, target := none, lane := x, kind := .probe, mark := .solo,
    status := if ok then .ok else .laneFaulted, attempts := r.attempts, bytesOut := 0, bytesIn := 0, start := stampAt r.start,
    stop := stamp }

/-- The end of a recovery sequence: its trace offer, and a TRACE_STOPPED notice that follows from it, and then the effect on the lane
with its records and its LANE_FAULTED or LANE_RESTORED notices (R109; the order is the model's choice, log 13). -/
def State.recoveryEnd (s : State) (x : LaneId) (r : Recovery) (ok : Bool) : State :=
  let offered := s.offer (recoveryTraceRecord x r ok s.stamp)
  let ended := offered.updLane x fun l => { l with recovery := none }
  match (ended.lane x).restart, ok with
  | some k, true => ended.restartSucceeds x k
  | some k, false => ended.restartFails x k
  | none, true =>
    ended.updLane x fun l => if l.run.isSome then l.nextAttempt s.elapsed else l.toIdle
  | none, false => ended.laneFault x

/-- The attempt leaves both lines high after its STOP (R108). -/
def RecoveryObs.succeeds : RecoveryObs → Bool
  | .clockHeld | .dataHeld => false
  | .stopped _ clockHigh dataHigh => clockHigh && dataHigh

/-- One recovery attempt of the sequence r (R108): success or the third failure ends the sequence, and a failure before it sets
the tick of the next attempt. -/
def State.recoveryTry (s : State) (x : LaneId) (r : Recovery) (o : RecoveryObs) : State :=
  let made := { r with attempts := r.attempts + 1 }
  if RecoveryObs.succeeds o then s.recoveryEnd x made true
  else if Config.recoveryAttempts ≤ made.attempts then s.recoveryEnd x made false
  else s.updLane x fun l => { l with recovery := some { made with nextTick := s.expiry Config.recoveryGapMs } }

/-- A recovery sequence begins: the lane goes RECOVERY and makes the first attempt at once (R108). That the attempt takes no time, so that its
failure or success falls at the microsecond of its beginning, is the model's choice (DESIGN CHOICE, log 32). -/
def State.recoveryBegin (s : State) (x : LaneId) (o : RecoveryObs) : State :=
  (s.updLane x fun l => { l with mode := .recovery, closing := false }).recoveryTry x
    { attempts := 0, start := s.elapsed, nextTick := 0 } o

/-- A later attempt of the sequence in progress, once its tick has been reached (R108). -/
def State.recoveryNext (s : State) (x : LaneId) (o : RecoveryObs) : State :=
  match (s.lane x).recovery with
  | some r => if (s.lane x).mode = .recovery ∧ s.reached r.nextTick then s.recoveryTry x r o else s
  | none => s

/-! ## Foreign controllers and limits (R105, R107) -/

/-- A lane line reads low while the lane is IDLE (R105); its stuck timing starts, or goes on from the release of a device reset
or from a failed image load (R107, R201). -/
def State.lineLow (s : State) (x : LaneId) (line : Line) : State :=
  if (s.lane x).mode = .idle then
    s.updLane x fun l =>
      { l.toForeign s.elapsed with
        clockLowFrom := if line = .clock then some (l.clockLowFrom.getD s.elapsed) else l.clockLowFrom
        dataLowFrom := if line = .data then some (l.dataLowFrom.getD s.elapsed) else l.dataLowFrom }
  else s

/-- The lane leaves FOREIGN with both lines high: a waiting run begins its next attempt, otherwise the lane goes IDLE (R105). -/
def State.leaveForeign (s : State) (x : LaneId) : State :=
  if (s.lane x).mode = .foreign then s.updLane x fun l => if l.run.isSome then l.nextAttempt s.elapsed else l.toIdle
  else s

/-- Both lines can have read high without a break since microsecond `since`: none was found low after it (R105, R199). -/
def Lane.highSince (l : Lane) (since : Nat) : Bool := decide (l.lowSeen ≤ since)

/-- Both lines have read high since microsecond `since`, which the idle limit is counted from (R105). -/
def State.idleReached (s : State) (x : LaneId) (since : Nat) : State :=
  if since + Config.idleLimitUs ≤ s.elapsed ∧ (s.lane x).highSince since then s.leaveForeign x else s

/-- The low timing of a line. -/
def Lane.lowFrom (l : Lane) : Line → Option Nat
  | .clock => l.clockLowFrom
  | .data => l.dataLowFrom

/-- The earliest moment at which the present low timing of a line can have started. In FOREIGN a line that read high may have
fallen since; in any other state a line that reads high is not timed (R106, R107). -/
def Lane.timedFrom (l : Lane) (line : Line) : Option Nat :=
  (l.lowFrom line).or (if l.mode = .foreign then some l.lowSeen else none)

/-- The stuck limit acts in this state of the lane (R107). -/
def Lane.stuckActs (l : Lane) : Bool :=
  match l.mode with
  | .idle | .foreign => true
  | .running | .sweep => l.closing
  | .recovery | .faulted | .load => false

/-- The stuck limit takes the lane to RECOVERY; a sweep in its closing ends first (R107, R111, R128). -/
def State.stuckReached (s : State) (x : LaneId) (line : Line) (since : Nat) (o : RecoveryObs) : State :=
  if (s.lane x).stuckActs ∧ s.reached (expiryTick since Config.stuckLimitMs)
      ∧ ((s.lane x).timedFrom line).any (fun t => decide (t ≤ since)) then
    (s.updLane x fun l => { l with sweep := none, grantOwed := l.grantOwed || l.sweep.isSome }).recoveryBegin x o
  else s

end Sys2Proof.Machine
end

