-- ==== Sys2Proof/Machine/Sweeps.lean ====
section
/-! DEFINITION. The Alert Sweep (06_alert_sweep.md): the latch, members, alert reads, write-backs and the end of a sweep. -/

namespace Sys2Proof.Machine

/-- The table entry is a member the sweep of lane x visits: ONLINE, on the lane, sweep member (R122). -/
def TableEntry.isMember (e : TableEntry) (x : LaneId) : Bool :=
  decide (e.state = .online) && decide (e.cfg.lane = x) && e.cfg.sweepMember

/-- The index lies above the visit position, which starts before index 0 (R121, R122). -/
def abovePosition (pos : Option TargetId) (t : TargetId) : Bool := pos.all fun p => decide (p < t)

/-- The next member (R122). -/
def State.nextMember (s : State) (x : LaneId) (pos : Option TargetId) : Option TargetId :=
  allTargets.find? fun t => abovePosition pos t && (s.entry t).isMember x

/-- A visit with the copy it takes of the entry; its alert read begins now (R122, R123). -/
def newVisit (t : TargetId) (e : TableEntry) (now : Nat) : Visit :=
  { target := t, address := e.cfg.address, alertReg := e.cfg.alertReg, alertClear := e.cfg.alertClear,
    stretch := e.cfg.stretch, stage := .read, start := now }

/-- The normal end of a sweep: a sweep that found nothing with the input enabled and low masks the latch and tells the hosts
that hold ADMIN (R127). -/
def State.sweepEnd (s : State) (x : LaneId) (found : Bool) : State :=
  let l := s.lane x
  let masks := !found && l.alertEnabled && l.alertLow
  let idle := s.updLane x fun l => { l.toIdle with sweep := none, grantOwed := true, masked := l.masked || masks }
  if masks then idle.notifyAll (fun h => (s.host h).rights.admin) .alertUnresolved (.lane x) 0 else idle

/-- The sweep goes on: a visit to the next member begins, or the sweep ends (R122, R127). -/
def State.sweepOn (s : State) (x : LaneId) (w : Sweep) : State :=
  match s.nextMember x w.position with
  | some t =>
    s.updLane x fun l =>
      { l.onLines s.elapsed with
        closing := false
        sweep := some { w with position := some t, visit := some (newVisit t (s.entry t) s.elapsed) } }
  | none => s.sweepEnd x w.found

/-- A sweep begins (R121). -/
def State.sweepBegin (s : State) (x : LaneId) : State :=
  (s.updLane x fun l => { l with mode := .sweep }).sweepOn x
    { speed := (s.lane x).speed, position := none, found := false, visit := none }

/-- A sweep that can no longer go on ends: the latch keeps its value, grant-owed is set and the lane goes FOREIGN (R128). -/
def State.sweepAbort (s : State) (x : LaneId) : State :=
  s.updLane x fun l => { l.toForeign s.elapsed with sweep := none, grantOwed := true }

/-- The sweep and the visit whose transfer is on the wires of lane x. -/
def State.visitOn (s : State) (x : LaneId) : Option (Sweep × Visit) :=
  if (s.lane x).mode = .sweep ∧ (s.lane x).closing = false then
    match (s.lane x).sweep with
    | some w => w.visit.map fun v => (w, v)
    | none => none
  else none

/-- The kind of a transfer in the trace (R126). -/
def VisitStage.kind : VisitStage → Kind
  | .read => .writeRead
  | .writeBack _ => .write

/-- The trace record of a sweep transfer (R126). -/
def sweepTraceRecord (x : LaneId) (v : Visit) (st : CStatus) (out inn : Nat) (stamp : Stamp) : TraceRecord :=
  { seq := 0, runType := .sweep, host := none, tag := none, target := some v.target, lane := x, kind := v.stage.kind,
    mark := .solo, status := st, attempts := 1, bytesOut := out, bytesIn := inn, start := stampAt v.start, stop := stamp }

/-- A sweep transfer is handed to the Target Table, against the threshold the entry has now, and to the Trace Unit (R7, R126). -/
def State.handOver (s : State) (x : LaneId) (v : Visit) (st : CStatus) (out inn : Nat) : State :=
  (s.applyStatus v.target st false (s.entry v.target).cfg.threshold).offer (sweepTraceRecord x v st out inn s.stamp)

/-- Bytes that a transfer of a visit can have moved when it stopped: an alert read sends one and then receives one, a write-back
sends two (R123, R125). -/
def VisitStage.reaches (g : VisitStage) (out inn : Nat) : Bool :=
  match g with
  | .read => decide (out ≤ 1 ∧ inn ≤ out)
  | .writeBack _ => decide (out ≤ 2 ∧ inn = 0)

/-- A NACK ended a transfer: after its STOP the visit ends, or the sweep when the STOP found the data line low (R111, R123). -/
def State.afterNack (s : State) (x : LaneId) (w : Sweep) (dataLow : Bool) : State :=
  if dataLow then s.sweepAbort x else s.sweepOn x w

/-- A transfer lost arbitration: the sweep ends and the lane goes FOREIGN (R111, R128). -/
def State.transferLost (s : State) (x : LaneId) (v : Visit) (out inn : Nat) : State :=
  (s.handOver x v .arbLost out inn).sweepAbort x

/-- A transfer's clock hold exceeded the copied stretch limit: the lane enters its closing phase, still in SWEEP (R111). A hold
in the STOP after a NACK is taken so too (DESIGN CHOICE, log 35). -/
def State.transferStretched (s : State) (x : LaneId) (v : Visit) (out since : Nat) : State :=
  if s.heldBeyond x since v.stretch then
    (s.handOver x v .stretchTimeout out 0).updLane x fun l => l.toClosing since
  else s

/-- The alert read ended OK with a byte: notices, the hand-over, and the write-back or the end of the visit (R124, R126;
the order of notices and hand-over is log 15). -/
def State.alertByte (s : State) (x : LaneId) (w : Sweep) (v : Visit) (b : Byte) : State :=
  let told := if b = 0 then s else s.tellSubscribers v.target .alert b
  let handed := told.handOver x v .ok 1 1
  let w' := { w with found := w.found || decide (b ≠ 0) }
  if b ≠ 0 ∧ v.alertClear then
    handed.updLane x fun l =>
      { l.onLines s.elapsed with sweep := some { w' with visit := some { v with stage := .writeBack b, start := s.elapsed } } }
  else handed.sweepOn x w'

/-- The end of an alert read (R123). -/
def State.alertReadEnds (s : State) (x : LaneId) (e : ReadEnd) : State :=
  match s.visitOn x with
  | some (w, v) =>
    if v.stage = .read then
      match e with
      | .ok b => s.alertByte x w v b
      | .addrNack second dataLow => (s.handOver x v .addrNack (if second then 1 else 0) 0).afterNack x w dataLow
      | .dataNack dataLow => (s.handOver x v .dataNack 0 0).afterNack x w dataLow
      | .stretch out since => if v.stage.reaches out 0 then s.transferStretched x v out since else s
      | .arbLost out inn => if v.stage.reaches out inn then s.transferLost x v out inn else s
    else s
  | none => s

/-- The end of a write-back (R125). -/
def State.writeBackEnds (s : State) (x : LaneId) (e : WriteEnd) : State :=
  match s.visitOn x with
  | some (w, v) =>
    if v.stage = .read then s
    else
      match e with
      | .ok => (s.handOver x v .ok 2 0).sweepOn x w
      | .addrNack dataLow => (s.handOver x v .addrNack 0 0).afterNack x w dataLow
      | .dataNack acked dataLow =>
        if acked < 2 then (s.handOver x v .dataNack acked 0).afterNack x w dataLow else s
      | .stretch out since => if v.stage.reaches out 0 then s.transferStretched x v out since else s
      | .arbLost out => if v.stage.reaches out 0 then s.transferLost x v out 0 else s
  | none => s

/-- How far a run's attempt had come, said of a visit's transfer, which has one element (R111). -/
def VisitStage.fits (g : VisitStage) (p : Progress) : Bool :=
  decide (p.elem = 0 ∧ p.opening = false ∧ p.done = []) && g.reaches p.written p.part.length

/-- The engine of lane x loses arbitration, in a run or in a sweep transfer (R98, R111). -/
def State.losesLane (s : State) (x : LaneId) (p : Progress) : State :=
  match s.visitOn x with
  | some (_, v) => if v.stage.fits p then s.transferLost x v p.written p.part.length else s
  | none => s.runLosesLane x p

/-- A clock hold beyond the stretch limit in use, in a run or in a sweep transfer (R97, R111). -/
def State.stretches (s : State) (x : LaneId) (p : Progress) (since : Nat) : State :=
  match s.visitOn x with
  | some (_, v) => if v.stage.fits p then s.transferStretched x v p.written since else s
  | none => s.runStretched x p since

/-- The engine sends the closing STOP: with both lines high the lane goes IDLE, or the sweep goes on; otherwise the lane stays
in its closing phase, where a line that reads high is timed afresh from now and the timing of one that reads low goes on (R97, R107,
R111). That the engine may then send a closing STOP again, any number of times, is the model's choice (DESIGN CHOICE, log 33). -/
def State.closes (s : State) (x : LaneId) (clockHigh dataHigh : Bool) : State :=
  let l := s.lane x
  if l.closing then
    if clockHigh && dataHigh then
      match l.mode, l.sweep with
      | .sweep, some w => s.sweepOn x w
      | _, _ => s.updLane x Lane.toIdle
    else
      s.updLane x fun l =>
        { l with
          clockLowFrom := some (if clockHigh then s.elapsed else l.clockLowFrom.getD s.elapsed)
          dataLowFrom := some (if dataHigh then s.elapsed else l.dataLowFrom.getD s.elapsed) }
  else s

/-- The alert input falls (R118). -/
def State.alertFalls (s : State) (x : LaneId) : State := s.updLane x fun l => { l with alertLow := true }

/-- The alert input rises: a MASKED latch returns to CLEAR unless the lane is FAULTED (R118, R120). -/
def State.alertRises (s : State) (x : LaneId) : State :=
  if (s.lane x).alertLow then
    s.updLane x fun l => { l with alertLow := false, masked := l.masked && decide (l.mode = .faulted) }
  else s

end Sys2Proof.Machine
end

