-- ==== Sys2Proof/Machine/Dispatchers.lean ====
section
/-! DEFINITION. Lane Dispatch (04_lane_dispatch.md): items, eligibility, candidates, the arbiter and the grant. -/

namespace Sys2Proof.Machine

/-- The group is an item: a SOLO entry or a closed chain, all QUEUED (R70). -/
def isItem (g : List SubEntry) : Bool := g.all (·.queued) && !isOpen g && !g.isEmpty

/-- The group's targets lie on lane x: a chain's targets all lie on one lane (R70). -/
def State.itemOnLane (s : State) (x : LaneId) (g : List SubEntry) : Bool :=
  match g.head? with
  | some e => decide ((s.entry e.desc.target).cfg.lane = x)
  | none => false

/-- The item is held behind older QUEUED work of its host to one of its targets (R72). -/
def heldBehind (older g : List SubEntry) : Bool :=
  older.any fun o => o.queued && g.any fun e => decide (e.desc.target = o.desc.target)

/-- A target's state admits an element (R74). -/
def EntryState.admits (st : EntryState) (k : Kind) : Bool :=
  match st with
  | .online => true
  | .quarantined => decide (k = .probe)
  | .offline | .undefined => false

/-- The item of host h is eligible on lane x, behind the older entries of its queue (R71 to R75). -/
def State.eligible (s : State) (h : HostId) (x : LaneId) (older g : List SubEntry) : Bool :=
  (s.host h).attached && !(s.host h).paused && isItem g && s.itemOnLane x g && !heldBehind older g
    && g.all fun e =>
      !(s.entry e.desc.target).lease.state.heldByOther h && (s.entry e.desc.target).state.admits e.desc.kind

/-- The first eligible item among the groups of a queue, behind the entries before them (R76). -/
def State.firstEligible (s : State) (h : HostId) (x : LaneId) : List SubEntry → List (List SubEntry) → Option (List SubEntry)
  | _, [] => none
  | older, g :: gs => if s.eligible h x older g then some g else s.firstEligible h x (older ++ g) gs

/-- A host's candidate on a lane: its oldest eligible item (R76). -/
def State.candidate (s : State) (h : HostId) (x : LaneId) : Option (List SubEntry) :=
  s.firstEligible h x [] (groups (s.host h).sq)

/-- The class of an item: the highest class among its entries (R70). -/
def itemClass (g : List SubEntry) : Nat := g.foldl (fun n e => max n e.desc.cls) 0

/-- The bypass count of an item: its entries' counts are equal (R70). -/
def itemBypass (g : List SubEntry) : Nat := (g.head?.map (·.bypass)).getD 0

/-- A candidate whose bypass count is 8 (R79). -/
def itemUrgent (g : List SubEntry) : Bool := decide (Config.urgentBypass ≤ itemBypass g)

/-- The effective class of a host's item (R80). -/
def State.effectiveClass (s : State) (h : HostId) (g : List SubEntry) : Nat := min (itemClass g) (s.host h).rights.cap

/-- The hosts in round-robin order after the last-granted host (R81). -/
def roundRobin : Option HostId → List HostId
  | none => [0, 1, 2, 3]
  | some h => [h + 1, h + 2, h + 3, h]

/-- The candidates of a choice, in round-robin order. -/
def State.candidates (s : State) (x : LaneId) : List (HostId × List SubEntry) :=
  (roundRobin (s.lane x).lastGranted).filterMap fun h => (s.candidate h x).map fun g => (h, g)

/-- The highest effective class among candidates. -/
def State.topClass (s : State) (cs : List (HostId × List SubEntry)) : Nat :=
  cs.foldl (fun n c => max n (s.effectiveClass c.1 c.2)) 0

/-- The arbiter: the first urgent candidate in round-robin order, otherwise the first of the highest effective class (R79). -/
def State.winner (s : State) (cs : List (HostId × List SubEntry)) : Option (HostId × List SubEntry) :=
  (cs.find? fun c => itemUrgent c.2).or (cs.find? fun c => decide (s.effectiveClass c.1 c.2 = s.topClass cs))

/-- The QUEUED entry is one of an item's. -/
def SubEntry.isOf (e : SubEntry) (g : List SubEntry) : Bool := e.queued && g.any fun i => e.tagged i.desc.tag

/-- Raises the bypass counts of an item's entries by 1, up to 8 (R82). -/
def HostCtx.raiseBypass (c : HostCtx) (g : List SubEntry) : HostCtx :=
  { c with sq := c.sq.map fun e => if e.isOf g then { e with bypass := min Config.urgentBypass (e.bypass + 1) } else e }

/-- Makes an item's entries RUNNING on lane x (R83). -/
def HostCtx.startItem (c : HostCtx) (x : LaneId) (g : List SubEntry) : HostCtx :=
  { c with sq := c.sq.map fun e => if e.isOf g then { e with state := .running x } else e }

/-- The policy copy a run takes of a table entry (R17). -/
def Settings.policy (c : Settings) : Policy :=
  { retryBudget := c.retryBudget, retryOnNack := c.retryOnNack, stretch := c.stretch, threshold := c.threshold }

/-- The run a grant starts, on its first attempt (R83, R93). -/
def State.newRun (s : State) (x : LaneId) (h : HostId) (g : List SubEntry) : Run :=
  { host := h, policies := g.map fun e => (s.entry e.desc.target).cfg.policy, speed := (s.lane x).speed, attempt := 1,
    results := [], stoppedAt := 0, start := s.elapsed, discarded := false }

/-- The grant of item g of host h among the candidates cs (R82, R83). -/
def State.grant (s : State) (x : LaneId) (cs : List (HostId × List SubEntry)) (h : HostId) (g : List SubEntry) : State :=
  let raised := cs.foldl (fun s c => if c.1 = h then s else s.updHost c.1 fun k => k.raiseBypass c.2) s
  let started := raised.updHost h fun c => c.startItem x g
  started.updLane x fun l =>
    { l.onLines s.elapsed with mode := .running, closing := false, run := some (s.newRun x h g), lastGranted := some h, grantOwed := false }

/-- A dispatcher choice: on an IDLE lane, outside the image load, a pending alert begins a sweep unless a grant is owed and a
candidate exists; otherwise a candidate is granted (R77, R78). -/
def State.choose (s : State) (x : LaneId) : State :=
  if (s.lane x).mode = .idle ∧ s.loading = false then
    let cs := s.candidates x
    if (s.lane x).alertPending && !((s.lane x).grantOwed && !cs.isEmpty) then s.sweepBegin x
    else
      match s.winner cs with
      | some (h, g) => s.grant x cs h g
      | none => s
  else s

end Sys2Proof.Machine
end

