-- ==== Sys2Proof/Machine/Lanes.lean ====
section
/-! DEFINITION. The lane commands' own parts (05_lane_engine_and_bus_runs.md section 5.7). -/

namespace Sys2Proof.Machine

/-- A lane after an accepted LANE_CONFIG: enabled yes sets the latch CLEAR (R112, R120). -/
def Lane.configured (l : Lane) (v : Speed) (enabled : Bool) : Lane :=
  { l with speed := v, alertEnabled := enabled, masked := l.masked && !enabled }

/-- LANE_CONFIG at the Lane Engine (R112). -/
def laneConfig (p : List Byte) (s : State) : State × Reply :=
  match parseLaneConfig p with
  | none => (s, plain .badField)
  | some (x, v, enabled) =>
    let s' := s.updLane x (·.configured v enabled)
    (s', ⟨.done, [laneByte x, speedByte (s'.lane x).speed, boolByte (s'.lane x).alertEnabled]⟩)

/-- LANE_STATUS at the Lane Engine, with the line levels it reads (R113, log 18). -/
def laneStatus (p : List Byte) (o : LaneObs) (s : State) : State × Reply :=
  match parseLane p with
  | none => (s, plain .badField)
  | some x => (s, ⟨.done, s.laneStatusBytes x o.clockHigh o.dataHigh⟩)

/-- The stored response of the previous command is given up and the slot is PENDING (R185). -/
def Port.awaitRestart (p : Port) : Port := { p with slot := .pending }

/-- An accepted LANE_RESTART: the caller is recorded, its slot is PENDING and the recovery sequence makes its first attempt
(R114, R185). -/
def State.beginRestart (s : State) (h : HostId) (x : LaneId) (exch check : Byte) (o : RecoveryObs) : State :=
  ((s.updLane x fun l => { l with restart := some { caller := h, exch := exch, check := check, live := true } }).updPort h
    Port.awaitRestart).recoveryBegin x o

/-- LANE_RESTART at the Lane Engine: a refusal is answered at once, and an accepted restart answers at its end (R114). -/
def laneRestart (h : HostId) (exch check : Byte) (p : List Byte) (o : RecoveryObs) (s : State) : State × Option Reply :=
  match parseLane p with
  | none => (s, some (plain .badField))
  | some x =>
    if (s.lane x).mode = .faulted then (s.beginRestart h x exch check o, none)
    else (s, some (plain .laneNotFaulted))

end Sys2Proof.Machine
end

