-- ==== Sys2Proof/Machine/Hosts.lean ====
section
/-! DEFINITION. Host contexts, rights and teardown (09_host_contexts_rights_and_teardown.md), and DEVICE_INFO. -/

namespace Sys2Proof.Machine

/-! ## Teardown (R173 to R176) -/

/-- A host's own queues and context at a teardown: RUNNING entries stay (R173). -/
def HostCtx.clearWork (c : HostCtx) : HostCtx :=
  { c with
    sq := c.sq.filter fun e => !e.queued
    chain := none
    cq := [], presentedTag := none
    nq := [], presentedNotice := false, overflow := false, overflowSeen := false
    credits := c.credits + c.queuedCount + c.cq.length
    paused := false }

/-- The run of host h on lane x, when the teardown is the first that finds it in flight, becomes a discarded run (R175). -/
def State.discardRun (s : State) (h : HostId) (x : LaneId) : State :=
  match (s.lane x).run with
  | some r =>
    if r.host = h ∧ r.discarded = false then
      (s.updHost h fun c => { c with discardedRunning := c.discardedRunning + (c.runningOn x).length }).updLane x fun l =>
        { l with run := some { r with discarded := true } }
    else s
  | none => s

/-- The response of a restart of host h will be discarded at its end (R115, R174). -/
def Restart.abandonedBy (k : Restart) (h : HostId) : Restart := { k with live := k.live && decide (k.caller ≠ h) }

/-- The Lane Engine's part of a teardown (R174). -/
def Lane.abandonRestart (h : HostId) (l : Lane) : Lane := { l with restart := l.restart.map (·.abandonedBy h) }

/-- The port's part of a teardown (R174). -/
def Port.cleared (p : Port) : Port := { p with slot := .empty, discarded := false }

/-- A teardown of host h (R173, R174). The leases are taken in ascending index (log 14). -/
def State.teardown (s : State) (h : HostId) : State :=
  let work := ((s.updHost h HostCtx.clearWork).discardRun h .A).discardRun h .B
  let leases := allTargets.foldl (fun s t => s.leaseTeardown h t) work
  let claim := leases.dropClaim h
  let engines := (claim.updLane .A (Lane.abandonRestart h)).updLane .B (Lane.abandonRestart h)
  engines.updPort h Port.cleared

/-- DETACH; its response is stored afterwards (R176). -/
def detachCommand (h : HostId) (s : State) : State × Reply :=
  let s' := s.teardown h
  (s', ⟨.done, [byteOf (s'.host h).credits]⟩)

/-- The port of a host that becomes HELD: no response, no repeat memory, a response read in progress abandoned, SDOn high impedance
(R174, R178, R186). -/
def Port.held (_ : Port) : Port := Port.afterReset

/-- HRSTn_n falls: an ATTACHED host becomes HELD with a teardown (R168, R176). -/
def State.hostResetFalls (s : State) (h : HostId) : State :=
  if (s.host h).attached then
    ((s.updHost h fun c => { c with attached := false }).teardown h).updPort h Port.held
  else s

/-- HRSTn_n rises: a HELD host becomes ATTACHED, and no other field of its context changes (R168); its port takes part in the
transfers that begin from now on (R186). -/
def State.hostResetRises (s : State) (h : HostId) : State :=
  if (s.host h).attached then s
  else s.updHost h fun c => { c with attached := true, port := { c.port with listensFrom := s.elapsed } }

/-! ## Commands (R170 to R172, R190) -/

/-- HOST_STATUS at the Host Context (R172, R206). -/
def hostStatus (h : HostId) (p : List Byte) (s : State) : State × Reply :=
  match (oneByte p).bind hostOfByte with
  | none => (s, plain .badField)
  | some g => if g ≠ h ∧ (s.host h).rights.admin = false then (s, plain .noRight) else (s, ⟨.done, s.hostStatusBytes g⟩)

/-- HOST_CONFIG at the Host Context (R171). -/
def hostConfig (h : HostId) (p : List Byte) (s : State) : State × Reply :=
  match parseHostConfig p with
  | none => (s, plain .badField)
  | some (ce, ne, sof, window) =>
    (s.updHost h fun c => { c with complEnable := ce, noticeEnable := ne, stopOnFault := sof, window := window },
      ⟨.done, [boolByte ce, boolByte ne, boolByte sof, byteOf window]⟩)

/-- A host other than g holds ADMIN (R170). -/
def State.adminBeside (s : State) (g : HostId) : Bool :=
  allHosts.any fun k => decide (k ≠ g) && (s.host k).rights.admin

/-- HOST_RIGHTS at the Host Context (R170). -/
def hostRights (p : List Byte) (s : State) : State × Reply :=
  match parseHostRights p with
  | none => (s, plain .badField)
  | some (g, r) =>
    if r.admin = false ∧ (s.host g).rights.admin ∧ s.adminBeside g = false then (s, plain .lastAdmin)
    else (s.updHost g fun c => { c with rights := r }, ⟨.done, [rightsByte r, byteOf r.cap, r.lanes.setWidth 8]⟩)

/-- DEVICE_INFO at the Command Unit (R190). -/
def deviceInfo (h : HostId) (s : State) : State × Reply := (s, ⟨.done, s.deviceInfoBytes h⟩)

end Sys2Proof.Machine
end

