-- ==== Sys2Proof/Machine/Loader.lean ====
section
/-! DEFINITION. The Image Loader (11_start_up_and_table_image_load.md sections 11.2 to 11.4): the fields of the image, how
transfers end, and how the load ends. -/

namespace Sys2Proof.Machine

/-! ## The image (R198, R209, R210) -/

/-- The fields of the image in the order they are judged (R198). -/
inductive ImageField where
  | magic | version | count | speedA | speedB | entry | check
  deriving DecidableEq, Repr

/-- The number of bytes of a field. -/
def ImageField.size : ImageField → Nat
  | .magic => 2
  | .version | .count | .speedA | .speedB => 1
  | .entry => 12
  | .check => 2

/-- The field the loader reads next; absent when the check has been received. -/
def Image.next (im : Image) : Option ImageField :=
  match im.received.length with
  | 0 => some .magic
  | 2 => some .version
  | 3 => some .count
  | 4 => some .speedA
  | 5 => some .speedB
  | n => if im.entries.length < im.count then some .entry else if n = 6 + 12 * im.count then some .check else none

/-- An earlier entry of the image has the same lane and address (R198). -/
def Image.duplicate (im : Image) (c : Settings) : Bool :=
  im.entries.any fun d => decide (d.lane = c.lane ∧ d.address = c.address)

/-- The fields of an image entry that lies at position k, with every field in range (R198, R209). -/
def imageEntry (k : Nat) : List Byte → Option Settings
  | index :: fields => if index.toNat = k then (RawSettings.ofBytes fields).bind RawSettings.check else none
  | [] => none

/-- The judgement of a field at the byte that completes it (R198). -/
def Image.judge (im : Image) (f : ImageField) (bytes : List Byte) : Except LoadFailure Image :=
  let got := { im with received := im.received ++ bytes }
  match f with
  | .magic => if bytes = [0xA6, 0x5D] then .ok got else .error .badMagic
  | .version => if bytes = [0x01] then .ok got else .error .badVersion
  | .count =>
    match oneByte bytes with
    | some n => if n.toNat ≤ 48 then .ok { got with count := n.toNat } else .error .badCount
    | none => .error .badCount
  | .speedA =>
    match (oneByte bytes).bind speedOfByte with
    | some v => .ok { got with speedA := v }
    | none => .error .badEntry
  | .speedB =>
    match (oneByte bytes).bind speedOfByte with
    | some v => .ok { got with speedB := v }
    | none => .error .badEntry
  | .entry =>
    match imageEntry im.entries.length bytes with
    | some c => if im.duplicate c then .error .duplicateAddress else .ok { got with entries := im.entries ++ [c] }
    | none => .error .badEntry
  | .check => if bytes = be16 (crc16 im.received) then .ok got else .error .badCheck

/-! ## The end of a transfer and of the load (R199 to R202) -/

/-- The loader waits for lane A before a transfer. -/
def Loader.waits (l : Loader) : Bool := decide (l.phase = .waitHigh ∨ l.phase = .waitFree)

/-- The trace record of one transfer of the loader (R202). -/
def imageTraceRecord (l : Loader) (st : CStatus) (out inn : Nat) (stamp : Stamp) : TraceRecord :=
  { seq := 0, runType := .image, host := none, tag := none, target := none, lane := .A, kind := .writeRead, mark := .solo,
    status := st, attempts := 1, bytesOut := out, bytesIn := inn, start := stampAt l.start, stop := stamp }

/-- The offer at the end of a transfer; nothing is offered while the loader waits (R202). -/
def State.offerTransfer (s : State) (st : CStatus) (out inn : Nat) : State :=
  if s.loader.phase = .transfer then s.offer (imageTraceRecord s.loader st out inn s.stamp) else s

/-- The load ends with a failure: the table and the speeds stay, and lane A leaves LOAD for IDLE (R201). -/
def State.loadFails (s : State) (r : LoadFailure) : State :=
  { s with
    loader := { s.loader with state := .loadFailed, reason := some r, phase := .none, image := Image.blank }
    laneA := { s.laneA with mode := .idle } }

/-- The entry an image entry defines: its lease record is FREE with an empty wait list (R200). -/
def imageDefined (c : Settings) (e : TableEntry) : TableEntry :=
  { state := .online, cfg := c, faults := 0, lease := { e.lease with state := .free, waiters := [] } }

/-- The load ends with a valid image, which is applied (R200). -/
def State.loadApplies (s : State) : State :=
  { s with
    loader := { s.loader with state := .loaded, reason := none, phase := .none, image := Image.blank }
    table := Vector.ofFn fun t => match s.loader.image.entries[t.val]? with
      | some c => imageDefined c (s.entry t)
      | none => s.entry t
    laneA := { s.laneA.toIdle with speed := s.loader.image.speedA }
    laneB := { s.laneB with speed := s.loader.image.speedB } }

/-- A transfer begins at offset 0x0000 on lines that read high; what earlier transfers read is discarded (R197, R199). -/
def State.beginTransfer (s : State) : State :=
  { s with
    loader := { s.loader with
      phase := .transfer, transfers := s.loader.transfers + 1, start := s.elapsed, image := Image.blank }
    laneA := s.laneA.onLines s.elapsed }

/-- The speed of every image transfer, whatever speed lane A's configuration holds (R197). -/
def imageSpeed : Speed := .k100

/-- Counts a transfer can have reached when its clock is held: `offsets` offset bytes acknowledged, and `extra` bytes of the field that
is next. All bytes of that field mean a hold in the bit that answers its last one, whether the field passes or fails (DESIGN CHOICE for one
that fails, log 36). -/
def Image.reached (im : Image) (offsets extra : Nat) : Bool :=
  decide (offsets ≤ 2 ∧ extra ≤ (im.next.map ImageField.size).getD 0 ∧ (offsets = 2 ∨ (im.received = [] ∧ extra = 0)))

/-- The loader answers the last byte of these bytes with NACK: they complete the field it reads next, and the field fails (R197,
R198). -/
def Image.refuses (im : Image) (field : List Byte) : Bool :=
  match im.next with
  | some f => decide (field.length = f.size) && (match im.judge f field with | .error _ => true | .ok _ => false)
  | none => false

/-- A moment of the image transfer at which R98 lets the loader lose arbitration, by the counts it leaves: before the first image byte
the START and the address W (no offset byte acknowledged) or the repeated START and the address R (both acknowledged; the offset bytes
0x00 have no 1 bit); after a field that fails the NACK that answers its last byte (log 31); after a valid check that NACK or the
STOP. -/
def Image.losesAt (im : Image) (offsets : Nat) (field : List Byte) : Bool :=
  match field with
  | [] => (decide (im.received = []) && decide (offsets = 0 ∨ offsets = 2)) || (decide (offsets = 2) && im.next.isNone)
  | _ :: _ => decide (offsets = 2) && im.refuses field

/-! ## The loader's events -/

/-- Both lines of lane A have read high for 1 ms since microsecond `since`: a transfer begins (R197, R199). The 1 ms ends on the
microsecond count, as R105 says of the idle limit (DESIGN CHOICE, log 29). -/
def State.imageStarts (s : State) (since : Nat) : State :=
  if s.loader.waits ∧ since + Config.idleLimitUs ≤ s.elapsed ∧ s.laneA.highSince since then s.beginTransfer else s

/-- A STOP is seen while the loader waits after a loss of arbitration (R199). -/
def State.imageStopSeen (s : State) : State := if s.loader.phase = .waitFree then s.beginTransfer else s

/-- The byte that completes an image field is received (R198); a failing byte is answered NACK, and the load ends (R201). -/
def State.imageField (s : State) (bytes : List Byte) : State :=
  match s.loader.image.next with
  | some f =>
    if s.loader.phase = .transfer ∧ bytes.length = f.size then
      match s.loader.image.judge f bytes with
      | .ok im => { s with loader := { s.loader with image := im } }
      | .error r => (s.offerTransfer .ok 2 (s.loader.image.received.length + bytes.length)).loadFails r
    else s
  | none => s

/-- The status and the offset bytes acknowledged of a transfer that a NACK ended (R199, R202). -/
def ImageNack.outcome : ImageNack → CStatus × Nat
  | .addressW => (.addrNack, 0)
  | .offset1 => (.dataNack, 0)
  | .offset2 => (.dataNack, 1)
  | .addressR => (.addrNack, 2)

/-- The image address or an offset byte is answered NACK (R199). -/
def State.imageNacked (s : State) (w : ImageNack) : State :=
  if s.loader.phase = .transfer ∧ s.loader.image.received = [] then
    (s.offerTransfer (ImageNack.outcome w).1 (ImageNack.outcome w).2 0).loadFails .noDevice
  else s

/-- The loader loses arbitration: it waits for the lane, or fails at the eighth transfer (R199). `field` holds the bytes of a field
whose NACK was lost. -/
def State.imageLost (s : State) (offsets : Nat) (field : List Byte) : State :=
  if s.loader.phase = .transfer ∧ s.loader.image.losesAt offsets field then
    let offered := s.offerTransfer .arbLost offsets (s.loader.image.received.length + field.length)
    if Config.imageTransfers ≤ s.loader.transfers then offered.loadFails .noDevice
    else
      { offered with
        loader := { offered.loader with phase := .waitFree, image := Image.blank }
        laneA := { offered.laneA with lowSeen := s.elapsed } }
  else s

/-- A clock hold since microsecond `since` exceeds 25 ms, in a transfer or while the loader waits (R199). That a hold in the NACK to a field
that has failed its check of R198 ends the load STRETCH_TIMEOUT, and not with the field's reason, is the model's choice: R198 judges the field
at its last byte, R201 places its failure at the STOP after the NACK, and that STOP is not reached (DESIGN CHOICE, log 36). -/
def State.imageStretched (s : State) (since offsets extra : Nat) : State :=
  if since + Config.imageHoldLimitUs < s.elapsed ∧ timingFits s.laneA.clockLowFrom since ∧ (s.loader.waits ∨
      (s.loader.phase = .transfer ∧ s.loader.image.reached offsets extra)) then
    ((s.offerTransfer .stretchTimeout offsets (s.loader.image.received.length + extra)).loadFails .stretchTimeout).updLane .A
      fun l => { l with clockLowFrom := some since }
  else s

/-- The data line has stayed low since microsecond `since` for 35 ms while the loader waits, with the clock high; the limit ends at
an expiry, as the stuck limit of the same line does (R194, R199, R201). -/
def State.imageStuck (s : State) (since : Nat) : State :=
  if s.loader.waits ∧ s.reached (expiryTick since Config.stuckLimitMs) ∧ timingFits s.laneA.dataLowFrom since then
    (s.loadFails .noDevice).updLane .A fun l => { l with clockLowFrom := none, dataLowFrom := some since }
  else s

/-- The STOP after a valid image completes with both lines high (R200). -/
def State.imageSucceeds (s : State) : State :=
  if s.loader.phase = .transfer ∧ s.loader.image.next = none then
    (s.offerTransfer .ok 2 s.loader.image.received.length).loadApplies
  else s

end Sys2Proof.Machine
end

