-- ==== Sys2Proof/Machine/Spi.lean ====
section
/-! DEFINITION. The wires of a host port (10_host_ports_and_command_frames.md R179, R186): what it reads on its data input, and the level
of SDOn. They are computed from the state and from the levels the host gives; a row stands for a whole transfer (log 10, log 27). -/

namespace Sys2Proof.Machine

/-! ## What the port reads -/

/-- An event on the wires of a port: chip select is asserted or released, or the clock rises, with the level of the host's data line
then, or falls. -/
inductive SpiEvent where
  | select
  | rise (data : Bool)
  | fall
  | release
  deriving DecidableEq, Repr

/-- A transfer in progress: whether chip select is asserted, the bits sampled so far, and how many times the clock has fallen. -/
structure SpiBits where
  selected : Bool
  sampled : List Bool
  falls : Nat
  deriving DecidableEq, Repr

/-- No transfer: chip select is released. -/
def SpiBits.idle : SpiBits := { selected := false, sampled := [], falls := 0 }

/-- Mode 0: the data is sampled at the rise of the clock and changed at its fall; a transfer runs from the assertion of chip select to
its release (R179). -/
def SpiBits.after (w : SpiBits) : SpiEvent → SpiBits
  | .select => { selected := true, sampled := [], falls := 0 }
  | .rise data => if w.selected then { w with sampled := w.sampled ++ [data] } else w
  | .fall => if w.selected then { w with falls := w.falls + 1 } else w
  | .release => { w with selected := false }

/-- The byte of eight bits, the most significant first (R179). -/
def byteOfBits (bits : List Bool) : Byte := bits.foldl (fun b high => (b <<< 1) ||| (if high then 1 else 0)) 0

/-- The complete bytes among the bits sampled; a byte left incomplete at the release of chip select is not counted (R179). -/
def bytesOfBits : List Bool → List Byte
  | b7 :: b6 :: b5 :: b4 :: b3 :: b2 :: b1 :: b0 :: rest => byteOfBits [b7, b6, b5, b4, b3, b2, b1, b0] :: bytesOfBits rest
  | _ => []

/-- The three kinds of transfer, by the first byte (R179). -/
inductive TransferKind where
  | commandFrame
  | responseRead
  | ignored
  deriving DecidableEq, Repr

/-- The kind of a transfer of these complete bytes (R179). -/
def transferKind (bytes : List Byte) : TransferKind :=
  if bytes.head? = some Config.frameMarker then .commandFrame
  else if bytes.head? = some Config.readMarker then .responseRead
  else .ignored

/-! ## What the port drives -/

/-- The pin SDOn. -/
inductive SdoLevel where
  | highZ
  | driven (high : Bool)
  deriving DecidableEq, Repr

/-- Byte i that SDOn sends in the transfer in progress, counted from 0: 0x00, but for a response read whose marker has been received the
bytes captured, from the second byte on (R179, R181). -/
def Port.sdoByte (p : Port) (i : Nat) : Byte :=
  match p.captured with
  | some bytes => ((0 :: bytes)[i]?).getD 0
  | none => 0

/-- The level of SDOn. With chip select released it is high impedance. With chip select asserted for `lasted` microseconds the port
drives the bit that the last fall of the clock has put there, the most significant bit of each byte first (R179); of a transfer it takes no
part in, as while its host is HELD or a device reset is asserted, it drives nothing (R186, R193). That this holds too for the rest of a
transfer during which HRSTn_n rose, of which R186 says that the port takes no part in it, is the model's reading (log 9). -/
def State.sdoLevel (s : State) (h : HostId) (lasted : Nat) (w : SpiBits) : SdoLevel :=
  if w.selected && s.hears h lasted then
    .driven (((msbFirst ((s.host h).port.sdoByte (w.falls / 8)))[w.falls % 8]?).getD false)
  else .highZ

end Sys2Proof.Machine
end

