-- ==== Sys2Proof/Machine/Commands.lean ====
section
/-! DEFINITION. The Command Unit (10_host_ports_and_command_frames.md section 10.5), what a port does with a command frame, and
the meanings of the port rows and of the host command rows. A host command row is the frame that carries the command, taken
by the port exactly as COMMAND_FRAME is (R182, log 11). -/

namespace Sys2Proof.Machine

/-! ## The Command Unit (R187 to R189) -/

/-- The host holds the named right the Command Unit checks for a command (R188). -/
def Cmd.permitted (c : Cmd) (r : Rights) : Bool :=
  match c with
  | .leaseRevoke | .tableWrite | .targetControl | .laneConfig | .laneRestart | .hostRights => r.admin
  | .lease => r.lease
  | .traceClaim | .traceControl | .traceRead => r.trace
  | .submit | .cancel | .resume | .fetchCompletion | .retire | .fetchNotice | .ackNotice | .release | .tableRead
  | .laneStatus | .hostStatus | .hostConfig | .detach | .traceRelease | .deviceInfo => true

/-- The commands that carry no fields (R188). -/
def Cmd.fieldless : Cmd → Bool
  | .resume | .fetchCompletion | .fetchNotice | .ackNotice | .detach | .traceRelease | .deviceInfo => true
  | .submit | .cancel | .retire | .lease | .release | .leaseRevoke | .tableRead | .tableWrite | .targetControl
  | .laneConfig | .laneStatus | .laneRestart | .hostStatus | .hostConfig | .hostRights | .traceClaim | .traceControl
  | .traceRead => false

/-- The checks of the Command Unit in order: the status of the first that fails, or the command (R187). -/
def commandUnit (h : HostId) (f : Frame) (s : State) : Except Status Cmd :=
  match Cmd.ofCode f.code with
  | none => .error .unknownCommand
  | some c =>
    if s.loading && !decide (c = .deviceInfo) then .error .notReady
    else if !c.permitted (s.host h).rights then .error .noRight
    else if c.fieldless && !f.payload.isEmpty then .error .badField
    else .ok c

/-- An owning block's answer, stored at once. -/
def answered (a : State × Reply) : State × Option Reply := (a.1, some a.2)

/-- A command handed to the block that owns it (R188). The reply is absent for an accepted LANE_RESTART, which answers at its
end (R185). -/
def runCommand (h : HostId) (c : Cmd) (f : Frame) (o : LaneObs) (s : State) : State × Option Reply :=
  match c with
  | .submit => answered (submitCommand h f.payload s)
  | .cancel => answered (cancelCommand h f.payload s)
  | .resume => answered (resumeCommand h s)
  | .fetchCompletion => answered (fetchCompletionCommand h s)
  | .retire => answered (retireCommand h f.payload s)
  | .fetchNotice => answered (fetchNoticeCommand h s)
  | .ackNotice => answered (ackNoticeCommand h s)
  | .lease => answered (leaseCommand h f.payload s)
  | .release => answered (releaseCommand h f.payload s)
  | .leaseRevoke => answered (leaseRevoke f.payload s)
  | .tableRead => answered (tableRead f.payload s)
  | .tableWrite => answered (tableWrite f.payload s)
  | .targetControl => answered (targetControl f.payload s)
  | .laneConfig => answered (laneConfig f.payload s)
  | .laneStatus => answered (laneStatus f.payload o s)
  | .laneRestart => laneRestart h f.exch (Frame.check f) f.payload o.recovery s
  | .hostStatus => answered (hostStatus h f.payload s)
  | .hostConfig => answered (hostConfig h f.payload s)
  | .hostRights => answered (hostRights f.payload s)
  | .detach => answered (detachCommand h s)
  | .traceClaim => answered (traceClaim h f.payload s)
  | .traceRelease => answered (traceRelease h s)
  | .traceControl => answered (traceControl h f.payload s)
  | .traceRead => answered (traceRead f.payload s)
  | .deviceInfo => answered (deviceInfo h s)

/-- The response of an executed command is stored in the slot (R182, R189). -/
def State.respond (s : State) (h : HostId) (f : Frame) (r : Reply) : State :=
  s.updPort h fun p => p.store f.exch (Frame.check f) r

/-- A command is executed and its response stored (R182, R187). -/
def State.execute (s : State) (h : HostId) (f : Frame) (o : LaneObs) : State :=
  match commandUnit h f s with
  | .error st => s.respond h f (plain st)
  | .ok c =>
    match runCommand h c f o s with
    | (s', some r) => s'.respond h f r
    | (s', none) => s'

/-! ## What a port does with a frame (R182) -/

/-- The frame is a DETACH. -/
def Frame.isDetach (f : Frame) : Bool := decide (f.code = Cmd.detach.code)

/-- A well-formed command frame by the slot state (R182). -/
def State.judgeSlot (s : State) (h : HostId) (f : Frame) (o : LaneObs) : State :=
  match (s.host h).port.slot with
  | .pending => if Frame.isDetach f then s.execute h f o else s.updPort h Port.discard
  | .empty | .ready _ => if (s.host h).port.repeats f then s else s.execute h f o

/-- A command frame is taken at the release of chip select (R182), SDOn having sent 0x00 on each of its bytes (R179). A
payload longer than 60 bytes makes it malformed (R180). -/
def State.takeFrame (s : State) (h : HostId) (f : Frame) (o : LaneObs) : State :=
  if f.wf then (s.judgeSlot h f o).sdoZeros h (f.payload.length + 5)
  else s.takeMalformed h f.exch (f.payload.length + 5)

/-- The lane observation of a command that looks at no lane. -/
def quietObs : LaneObs := { clockHigh := true, dataHigh := true, recovery := .clockHeld }

/-- A host sends a command frame, begun and ended now (log 10). -/
def State.sends (s : State) (h : HostId) (c : Cmd) (x : Byte) (p : List Byte) (o : LaneObs) : State :=
  s.onPort h 0 fun s => s.takeFrame h { code := c.code, exch := x, payload := p } o

/-! ## The port rows -/

/-- COMMAND_FRAME (R182). -/
def execCommandFrame (v : Transfer) (f : Frame) (o : LaneObs) (s : State) :
    Host.Outcome State Fault Refusal :=
  .next (s.onPort v.host v.lasted fun s => s.takeFrame v.host f o)

/-- MALFORMED_FRAME (R180, R182, R184): a command frame that is short, long or corrupt. -/
def execMalformedFrame (v : Transfer) (bytes : List Byte) (s : State) :
    Host.Outcome State Fault Refusal :=
  .next (s.onPort v.host v.lasted fun s =>
    if (judgeFrame bytes).isNone then s.takeMalformed v.host (receivedExch bytes) (bytes.length + 1) else s)

/-- REPEAT_FRAME (R183). -/
def execRepeatFrame (v : Transfer) (f : Frame) (s : State) : Host.Outcome State Fault Refusal :=
  .next (s.onPort v.host v.lasted fun s =>
    if f.wf && (s.host v.host).port.repeats f then s.sdoZeros v.host (f.payload.length + 5) else s)

/-- The frame these bytes spell is a well-formed DETACH, which a PENDING slot does not discard (R184). -/
def spellsDetach (bytes : List Byte) : Bool := (judgeFrame bytes).any Frame.isDetach

/-- DISCARDED_FRAME (R184). -/
def execDiscardedFrame (v : Transfer) (bytes : List Byte) (s : State) :
    Host.Outcome State Fault Refusal :=
  .next (s.onPort v.host v.lasted fun s =>
    if decide ((s.host v.host).port.slot = .pending) && !spellsDetach bytes then
      (s.updPort v.host Port.discard).sdoZeros v.host (bytes.length + 1)
    else s)

/-- The end of the marker byte of a response read: the slot is captured, SDOn having sent 0x00 with the marker (R181, log 9). -/
def Port.capture (p : Port) : Port := { p with captured := some p.readBytes, sdo := [0] }

/-- The release of chip select after n more bytes: SDOn has sent the capture, whatever the slot has become since, and 0x00 after its
last byte (R179, R181). Without a capture no response read is in progress. -/
def Port.deliver (p : Port) (n : Nat) : Port :=
  match p.captured with
  | some bytes => { p with captured := none, sdo := 0 :: (bytes ++ List.replicate n 0).take n }
  | none => p

/-- The effect of one moment of a response read on its port (R181). -/
def Port.reads (p : Port) : ReadPart → Port
  | .marker => p.capture
  | .release clocked => p.deliver clocked

/-- RESPONSE_READ, once at the end of its marker byte and once at the release of chip select (R181, R191, log 10). -/
def execResponseRead (v : Transfer) (part : ReadPart) (s : State) : Host.Outcome State Fault Refusal :=
  .next (s.onPort v.host v.lasted fun s => s.updPort v.host fun p => p.reads part)

/-- The transfer carries no complete byte, or begins with neither marker (R179). -/
def ignoredBytes (bytes : List Byte) : Bool := decide (transferKind bytes = .ignored)

/-- IGNORED_TRANSFER (R179). -/
def execIgnoredTransfer (v : Transfer) (bytes : List Byte) (s : State) :
    Host.Outcome State Fault Refusal :=
  .next (s.onPort v.host v.lasted fun s => if ignoredBytes bytes then s.sdoZeros v.host bytes.length else s)

/-- UNKNOWN_COMMAND (R187): a frame whose code is not in the code list. -/
def execUnknownCommand (v : Transfer) (f : Frame) (s : State) : Host.Outcome State Fault Refusal :=
  .next (s.onPort v.host v.lasted fun s => if (Cmd.ofCode f.code).isNone then s.takeFrame v.host f quietObs else s)

/-! ## Submission commands -/

/-- SUBMIT (R32, R33). -/
def execSubmit (h : HostId) (x : Byte) (d : RawDescriptor) (s : State) : Host.Outcome State Fault Refusal :=
  .next (s.sends h .submit x (RawDescriptor.toBytes d) quietObs)

/-- CANCEL (R41). -/
def execCancel (h : HostId) (x tag : Byte) (s : State) : Host.Outcome State Fault Refusal :=
  .next (s.sends h .cancel x [tag] quietObs)

/-- RESUME (R48). -/
def execResume (h : HostId) (x : Byte) (s : State) : Host.Outcome State Fault Refusal :=
  .next (s.sends h .resume x [] quietObs)

/-! ## Completion and notice commands -/

/-- FETCH_COMPLETION (R136). -/
def execFetchCompletion (h : HostId) (x : Byte) (s : State) : Host.Outcome State Fault Refusal :=
  .next (s.sends h .fetchCompletion x [] quietObs)

/-- RETIRE (R137). -/
def execRetire (h : HostId) (x tag : Byte) (s : State) : Host.Outcome State Fault Refusal :=
  .next (s.sends h .retire x [tag] quietObs)

/-- FETCH_NOTICE (R145). -/
def execFetchNotice (h : HostId) (x : Byte) (s : State) : Host.Outcome State Fault Refusal :=
  .next (s.sends h .fetchNotice x [] quietObs)

/-- ACK_NOTICE (R146). -/
def execAckNotice (h : HostId) (x : Byte) (s : State) : Host.Outcome State Fault Refusal :=
  .next (s.sends h .ackNotice x [] quietObs)

/-! ## Lease commands -/

/-- LEASE (R52, R53). -/
def execLease (h : HostId) (x index : Byte) (duration : BitVec 16) (option : Byte) (s : State) :
    Host.Outcome State Fault Refusal :=
  .next (s.sends h .lease x ([index] ++ be16 duration ++ [option]) quietObs)

/-- RELEASE (R60). -/
def execRelease (h : HostId) (x index : Byte) (s : State) : Host.Outcome State Fault Refusal :=
  .next (s.sends h .release x [index] quietObs)

/-- LEASE_REVOKE (R61). -/
def execLeaseRevoke (h : HostId) (x index : Byte) (s : State) : Host.Outcome State Fault Refusal :=
  .next (s.sends h .leaseRevoke x [index] quietObs)

/-! ## Table commands -/

/-- TABLE_READ (R12). -/
def execTableRead (h : HostId) (x index : Byte) (s : State) : Host.Outcome State Fault Refusal :=
  .next (s.sends h .tableRead x [index] quietObs)

/-- TABLE_WRITE with intent DEFINE (R13 to R16). -/
def execTableWriteDefine (h : HostId) (x index : Byte) (r : RawSettings) (s : State) : Host.Outcome State Fault Refusal :=
  .next (s.sends h .tableWrite x ([index, 0] ++ RawSettings.toBytes r) quietObs)

/-- TABLE_WRITE with intent UNDEFINE (R13 to R16). -/
def execTableWriteUndefine (h : HostId) (x index : Byte) (r : RawSettings) (s : State) :
    Host.Outcome State Fault Refusal :=
  .next (s.sends h .tableWrite x ([index, 1] ++ RawSettings.toBytes r) quietObs)

/-- TARGET_CONTROL ONLINE (R19, R20). -/
def execTargetControlOnline (h : HostId) (x index : Byte) (s : State) : Host.Outcome State Fault Refusal :=
  .next (s.sends h .targetControl x [index, 0] quietObs)

/-- TARGET_CONTROL OFFLINE (R19, R22). -/
def execTargetControlOffline (h : HostId) (x index : Byte) (s : State) : Host.Outcome State Fault Refusal :=
  .next (s.sends h .targetControl x [index, 1] quietObs)

/-- TARGET_CONTROL QUARANTINE (R19, R21). -/
def execTargetControlQuarantine (h : HostId) (x index : Byte) (s : State) : Host.Outcome State Fault Refusal :=
  .next (s.sends h .targetControl x [index, 2] quietObs)

/-! ## Lane commands -/

/-- LANE_CONFIG (R112). -/
def execLaneConfig (h : HostId) (x lane speed enabled : Byte) (s : State) : Host.Outcome State Fault Refusal :=
  .next (s.sends h .laneConfig x [lane, speed, enabled] quietObs)

/-- LANE_STATUS (R113). -/
def execLaneStatus (h : HostId) (x lane : Byte) (o : LaneObs) (s : State) : Host.Outcome State Fault Refusal :=
  .next (s.sends h .laneStatus x [lane] o)

/-- LANE_RESTART (R114). -/
def execLaneRestart (h : HostId) (x lane : Byte) (o : LaneObs) (s : State) : Host.Outcome State Fault Refusal :=
  .next (s.sends h .laneRestart x [lane] o)

/-! ## Host context commands -/

/-- HOST_STATUS (R172). -/
def execHostStatus (h : HostId) (x host : Byte) (s : State) : Host.Outcome State Fault Refusal :=
  .next (s.sends h .hostStatus x [host] quietObs)

/-- HOST_CONFIG (R171). -/
def execHostConfig (h : HostId) (x completions notices stopOnFault window : Byte) (s : State) :
    Host.Outcome State Fault Refusal :=
  .next (s.sends h .hostConfig x [completions, notices, stopOnFault, window] quietObs)

/-- HOST_RIGHTS (R170). -/
def execHostRights (h : HostId) (x host rights cap lanes : Byte) (s : State) : Host.Outcome State Fault Refusal :=
  .next (s.sends h .hostRights x [host, rights, cap, lanes] quietObs)

/-- DETACH (R176). -/
def execDetach (h : HostId) (x : Byte) (s : State) : Host.Outcome State Fault Refusal :=
  .next (s.sends h .detach x [] quietObs)

/-! ## Trace commands and DEVICE_INFO -/

/-- TRACE_CLAIM (R161). -/
def execTraceClaim (h : HostId) (x option : Byte) (s : State) : Host.Outcome State Fault Refusal :=
  .next (s.sends h .traceClaim x [option] quietObs)

/-- TRACE_RELEASE (R162). -/
def execTraceRelease (h : HostId) (x : Byte) (s : State) : Host.Outcome State Fault Refusal :=
  .next (s.sends h .traceRelease x [] quietObs)

/-- TRACE_CONTROL SET (R163). -/
def execTraceControlSet (h : HostId) (x : Byte) (r : RawTraceSet) (s : State) : Host.Outcome State Fault Refusal :=
  .next (s.sends h .traceControl x (0 :: RawTraceSet.toBytes r) quietObs)

/-- TRACE_CONTROL CLEAR (R164). -/
def execTraceControlClear (h : HostId) (x : Byte) (s : State) : Host.Outcome State Fault Refusal :=
  .next (s.sends h .traceControl x [1] quietObs)

/-- TRACE_CONTROL OFF (R164). -/
def execTraceControlOff (h : HostId) (x : Byte) (s : State) : Host.Outcome State Fault Refusal :=
  .next (s.sends h .traceControl x [2] quietObs)

/-- TRACE_READ (R165). -/
def execTraceRead (h : HostId) (x : Byte) (index : BitVec 16) (s : State) : Host.Outcome State Fault Refusal :=
  .next (s.sends h .traceRead x (be16 index) quietObs)

/-- DEVICE_INFO (R190). -/
def execDeviceInfo (h : HostId) (x : Byte) (s : State) : Host.Outcome State Fault Refusal :=
  .next (s.sends h .deviceInfo x [] quietObs)

end Sys2Proof.Machine
end

