-- ==== Sys2Proof/Machine/Reset.lean ====
section
/-! DEFINITION. The reset pins: device reset (11_start_up_and_table_image_load.md section 11.1) and the host reset lines
(09_host_contexts_rights_and_teardown.md section 9.2). -/

namespace Sys2Proof.Machine

/-- A Lane Engine at the assertion of a device reset: it abandons its run, sweep, recovery, restart and closing and releases
its lines (R116, R193). What the release gives each field follows at the release. -/
def Lane.abandoned (l : Lane) : Lane :=
  { l with closing := false, run := none, sweep := none, recovery := none, restart := none }

/-- The assertion of a device reset (R193): the lanes, the image transfer and the port transfers are abandoned, and the
attention lines are released (State.attn). Stored values stand until the release, and nothing can reach them (log 25). -/
def State.resetFalls (s : State) : State :=
  { s with
    resetAsserted := true
    loader := { s.loader with phase := .none, image := Image.blank }
    hosts := s.hosts.map fun c => { c with port := { c.port with captured := none, sdo := [] } }
    laneA := s.laneA.abandoned
    laneB := s.laneB.abandoned }

/-- The part at the release of a device reset, with the pins sampled there; the commands already waiting stay in the model's
queue (R193, R195, R196). -/
def State.afterRelease (p : ResetPins) (pending : List Instr) : State :=
  { elapsed := 0, resetAsserted := false
    straps := { adm := p.adm, imgen := p.imgen, imga := p.imga }
    loader := Loader.afterReset p.imgen
    table := Vector.replicate 48 TableEntry.afterReset
    hosts := Vector.ofFn fun h => HostCtx.afterReset (decide (h = p.adm)) (hostIn p.hostHigh h)
    laneA := Lane.afterReset (if p.imgen then .load else .idle) p.laneA
    laneB := Lane.afterReset .idle p.laneB
    trace := Trace.afterReset
    pending := pending }

/-- DEVICE_RESET_ASSERT (R193). -/
def execDeviceResetAssert (s : State) : Host.Outcome State Fault Refusal := .next s.resetFalls

/-- DEVICE_RESET_RELEASE of a device reset that is asserted (R193). -/
def execDeviceResetRelease (p : ResetPins) (s : State) : Host.Outcome State Fault Refusal :=
  .next (if s.resetAsserted then State.afterRelease p s.pending else s)

/-- HOST_RESET_ASSERT (R168, R173 to R176). -/
def execHostResetAssert (h : HostId) (s : State) : Host.Outcome State Fault Refusal := .next (s.live (·.hostResetFalls h))

/-- HOST_RESET_RELEASE (R168). -/
def execHostResetRelease (h : HostId) (s : State) : Host.Outcome State Fault Refusal := .next (s.live (·.hostResetRises h))

end Sys2Proof.Machine
end

