-- ==== Sys2Proof/Machine/Events.lean ====
section
/-! DEFINITION. The meanings of the rows that the lanes, the Time Base and the image EEPROM bring about (03 to 06, 11). While a
device reset is asserted the part acts on none of them (R193); a row whose condition does not hold leaves the state as it
is (log 1). -/

namespace Sys2Proof.Machine

/-! ## Alert inputs and foreign controllers -/

/-- ALERT_INPUT_FALL (R118, R119). -/
def execAlertInputFall (lane : LaneId) (s : State) : Host.Outcome State Fault Refusal := .next (s.live (·.alertFalls lane))

/-- ALERT_INPUT_RISE (R118, R120). -/
def execAlertInputRise (lane : LaneId) (s : State) : Host.Outcome State Fault Refusal := .next (s.live (·.alertRises lane))

/-- FOREIGN_LINE_LOW (R105). -/
def execForeignLineLow (lane : LaneId) (line : Line) (s : State) : Host.Outcome State Fault Refusal :=
  .next (s.live (·.lineLow lane line))

/-- FOREIGN_STOP_SEEN (R105). -/
def execForeignStopSeen (lane : LaneId) (s : State) : Host.Outcome State Fault Refusal := .next (s.live (·.leaveForeign lane))

/-- IDLE_LIMIT (R105): both lines have read high since microsecond `since`. -/
def execIdleLimit (lane : LaneId) (since : Nat) (s : State) : Host.Outcome State Fault Refusal :=
  .next (s.live (·.idleReached lane since))

/-- STUCK_LIMIT (R107): the line has been low since microsecond `since`; `r` is what the first recovery attempt observes. -/
def execStuckLimit (lane : LaneId) (line : Line) (since : Nat) (r : RecoveryObs) (s : State) :
    Host.Outcome State Fault Refusal :=
  .next (s.live (·.stuckReached lane line since r))

/-- RECOVERY_ATTEMPT (R108). -/
def execRecoveryAttempt (lane : LaneId) (r : RecoveryObs) (s : State) : Host.Outcome State Fault Refusal :=
  .next (s.live (·.recoveryNext lane r))

/-! ## Dispatch and attempts -/

/-- DISPATCHER_CHOICE (R77, R78). -/
def execDispatcherChoice (lane : LaneId) (s : State) : Host.Outcome State Fault Refusal := .next (s.live (·.choose lane))

/-- ATTEMPT_SUCCESS (R94), with the bytes each element read. -/
def execAttemptSuccess (lane : LaneId) (reads : List (List Byte)) (s : State) : Host.Outcome State Fault Refusal :=
  .next (s.live (·.attemptSucceeds lane reads))

/-- ADDRESS_NACK (R95): at the element at place `elem`, after elements that read `done`. -/
def execAddressNack (lane : LaneId) (elem : Nat) (done : List (List Byte)) (second dataLow : Bool) (s : State) :
    Host.Outcome State Fault Refusal :=
  .next (s.live (·.addressRefused lane elem done second dataLow))

/-- WRITE_BYTE_NACK (R96). -/
def execWriteByteNack (lane : LaneId) (elem : Nat) (done : List (List Byte)) (acked : Nat) (dataLow : Bool) (s : State) :
    Host.Outcome State Fault Refusal :=
  .next (s.live (·.writeRefused lane elem done acked dataLow))

/-- ARBITRATION_LOSS (R98, R111). -/
def execArbitrationLoss (lane : LaneId) (p : Progress) (s : State) : Host.Outcome State Fault Refusal :=
  .next (s.live (·.losesLane lane p))

/-- STRETCH_TIMEOUT (R97, R111): the clock has been held since microsecond `since`. -/
def execStretchTimeout (lane : LaneId) (p : Progress) (since : Nat) (s : State) : Host.Outcome State Fault Refusal :=
  .next (s.live (·.stretches lane p since))

/-- CLOSING_STOP (R97, R111), with the levels read after the STOP. -/
def execClosingStop (lane : LaneId) (clockHigh dataHigh : Bool) (s : State) : Host.Outcome State Fault Refusal :=
  .next (s.live (·.closes lane clockHigh dataHigh))

/-! ## Timed events -/

/-- LEASE_EXPIRY (R62). -/
def execLeaseExpiry (t : TargetId) (s : State) : Host.Outcome State Fault Refusal := .next (s.live (·.leaseExpire t))

/-- WAIT_DEADLINE (R38, R39). -/
def execWaitDeadline (h : HostId) (tag : Byte) (s : State) : Host.Outcome State Fault Refusal :=
  .next (s.live (·.waitDeadline h tag))

/-- CHAIN_WINDOW_EXPIRY (R35). -/
def execChainWindowExpiry (h : HostId) (s : State) : Host.Outcome State Fault Refusal := .next (s.live (·.windowExpiry h))

/-! ## Sweep transfers -/

/-- ALERT_READ_END (R123, R124). -/
def execAlertReadEnd (lane : LaneId) (e : ReadEnd) (s : State) : Host.Outcome State Fault Refusal :=
  .next (s.live (·.alertReadEnds lane e))

/-- WRITE_BACK_END (R125). -/
def execWriteBackEnd (lane : LaneId) (e : WriteEnd) (s : State) : Host.Outcome State Fault Refusal :=
  .next (s.live (·.writeBackEnds lane e))

/-! ## The image load -/

/-- IMAGE_LOAD_START (R197, R199): both lines have read high since microsecond `since`. -/
def execImageLoadStart (since : Nat) (s : State) : Host.Outcome State Fault Refusal := .next (s.live (·.imageStarts since))

/-- IMAGE_FIELD_CHECK (R198): the bytes of the field that the last byte received completes. -/
def execImageFieldCheck (bytes : List Byte) (s : State) : Host.Outcome State Fault Refusal := .next (s.live (·.imageField bytes))

/-- IMAGE_ADDRESS_NACK (R199). -/
def execImageAddressNack (w : ImageNack) (s : State) : Host.Outcome State Fault Refusal := .next (s.live (·.imageNacked w))

/-- IMAGE_ARB_LOST (R199). -/
def execImageArbLost (offsets : Nat) (field : List Byte) (s : State) : Host.Outcome State Fault Refusal :=
  .next (s.live (·.imageLost offsets field))

/-- IMAGE_STRETCH_TIMEOUT (R199). -/
def execImageStretchTimeout (since offsets extra : Nat) (s : State) : Host.Outcome State Fault Refusal :=
  .next (s.live (·.imageStretched since offsets extra))

/-- IMAGE_DATA_STUCK (R199). -/
def execImageDataStuck (since : Nat) (s : State) : Host.Outcome State Fault Refusal := .next (s.live (·.imageStuck since))

/-- IMAGE_LOAD_SUCCESS (R200). -/
def execImageLoadSuccess (s : State) : Host.Outcome State Fault Refusal := .next (s.live (·.imageSucceeds))

/-- IMAGE_WAIT_STOP_SEEN (R199). -/
def execImageWaitStopSeen (s : State) : Host.Outcome State Fault Refusal := .next (s.live (·.imageStopSeen))

end Sys2Proof.Machine
end

