-- ==== Sys2Proof/Machine/Wires.lean ====
section
/-! DEFINITION. What an engine puts on its lane: the sequences of a run, of the sweep transfers and of the image transfer
(05 section 5.2 and R95 to R98, R108, R111; 06 R123, R125; 11 R197, R199), whole and stopped early, and what it does with the two lines in
each condition and byte (R89).
They are computed from the state, as the attention lines are; what the targets answer comes with the rows that end an attempt or a
transfer (log 5, log 27). -/

namespace Sys2Proof.Machine

/-- One condition or byte on a lane (R89), or one clock pulse of a recovery attempt (R108). `readByte` says whether the engine
answers it with NACK; `stopLow` is a STOP after a NACK in which the data line reads low once the engine has released it (R95, R96,
R111); `stopWatched` is a STOP after which the engine looks at both lines: the closing STOP (R97, R111) and that of a recovery attempt
(R108). -/
inductive WireItem where
  | start
  | restart
  | address (a : BitVec 7) (read : Bool)
  | writeByte (b : Byte)
  | readByte (nack : Bool)
  | stop
  | stopLow
  | stopWatched
  | pulse
  deriving DecidableEq, Repr

/-- An address byte: the seven address bits and the direction bit, 0 for write and 1 for read (R89). -/
def addressByte (a : BitVec 7) (read : Bool) : Byte := a ++ (if read then 1#1 else 0#1)

/-! ## The lines (R89) -/

/-- What an engine does with its lines, one thing after another. A line is pulled low or released, never driven high. -/
inductive LineAct where
  | pull (line : Line)
  | release (line : Line)
  /-- Both lines are looked at. A low one before a START is a loss of arbitration (R89, R98); after a closing STOP it leaves the lane in
  its closing phase (R97), and after the STOP of a recovery attempt it fails the attempt (R108). -/
  | bothHigh
  /-- The released clock is watched until it reads high: a clock that stays low is a stretch, timed in an attempt or a transfer (R92); in
  a closing STOP the stuck limit times it (R97, R107), and in a recovery attempt, before the pulses or in the STOP, it fails
  the attempt (R108). -/
  | clockHigh
  /-- The released data line is expected to read high while the clock is high. A low level is a loss of arbitration (R98); in the STOP
  after a NACK it is `dataLow` instead. -/
  | dataHigh
  /-- The data line reads low when the engine has released it to form the STOP after a NACK: another controller is using the lane
  (R95, R96, R111). -/
  | dataLow
  /-- The data line is sampled while the clock is high: a bit the target sends, or the line after a recovery pulse. -/
  | sample
  /-- The data line is sampled while the clock is high for the target's answer to a byte: low is ACK, high is NACK (R89). -/
  | answer
  deriving DecidableEq, Repr

/-- One bit: the data line takes its level while the clock is low, and the level is valid while the clock is high. -/
def bitActs (level : LineAct) (valid : List LineAct) : List LineAct :=
  [.pull .clock, level, .release .clock, .clockHigh] ++ valid

/-- A bit the engine sends: a pulled data line for 0, a released one for 1, which must then read high (R89, R98). -/
def sentBit (b : Bool) : List LineAct := if b then bitActs (.release .data) [.dataHigh] else bitActs (.pull .data) []

/-- A bit the engine receives: it releases the data line and samples it. -/
def receivedBit : List LineAct := bitActs (.release .data) [.sample]

/-- The ninth bit of a byte the engine sends: it releases the data line and samples the target's answer. -/
def answerBit : List LineAct := bitActs (.release .data) [.answer]

/-- A byte the engine sends, with the ninth bit in which the target answers. -/
def sentByte (b : Byte) : List LineAct := (msbFirst b).flatMap sentBit ++ answerBit

/-- The eight bits of a byte the engine receives. -/
def receivedBits : List LineAct := (List.replicate 8 receivedBit).flatten

/-- A byte the engine receives, with the ninth bit in which it answers: ACK pulls the data line low, NACK releases it. -/
def receivedByte (nack : Bool) : List LineAct := receivedBits ++ sentBit nack

/-- A STOP up to the moment its released clock is watched: the engine pulls the data line low while the clock is low and releases the
clock (R89). -/
def stopToClock : List LineAct := [.pull .clock, .pull .data, .release .clock, .clockHigh]

/-- A STOP up to the moment its data line is judged: the data line is released once the clock reads high (R89). -/
def stopActs : List LineAct := stopToClock ++ [.release .data]

/-- The engine lets go of its lane: it releases both lines at once and sends nothing more, at a loss of arbitration, at a stretch timeout,
at a STOP after a NACK that finds the data line low, when its lane becomes FAULTED, and at a device reset (R95 to R98, R110, R111, R116,
R199). -/
def letGo : List LineAct := [.release .clock, .release .data]

/-- What the engine does with the lines for an item: START pulls the data line low on lines that read high; a repeated START releases
the data line and then the clock, with the clock low, and pulls the data line low while the clock is high; STOP is formed as `stopActs`
says, and one whose data line reads low ends with the release of both lines, nothing more being sent, and one after which both lines are
looked at with that look; a pulse is one clock with the
data line sampled after it (R89, R95, R96, R98, R108). That the released data line of a repeated START is judged once the clock reads
high, and not before the clock is released, is the model's choice: R98 names the release and no moment of sampling (log 27). That a
pulse of a recovery attempt samples the data line without waiting for the clock it has released to read high is the model's choice too:
R108 does not say what a clock that stays low does, and R92 times the holds of a run's attempts (DESIGN CHOICE, log 34). -/
def WireItem.lines : WireItem → List LineAct
  | .start => [.bothHigh, .pull .data]
  | .restart => [.pull .clock, .release .data, .release .clock, .clockHigh, .dataHigh, .pull .data]
  | .address a read => sentByte (addressByte a read)
  | .writeByte b => sentByte b
  | .readByte nack => receivedByte nack
  | .stop => stopActs ++ [.dataHigh]
  | .stopLow => stopActs ++ [.dataLow] ++ letGo
  | .stopWatched => stopActs ++ [.bothHigh]
  | .pulse => [.release .data, .pull .clock, .release .clock, .sample]

/-- What the engine does with the lines for a sequence. -/
def lineActs (items : List WireItem) : List LineAct := items.flatMap WireItem.lines

/-- The level of each line, high while nobody pulls it, after the engine alone has acted: data and clock. -/
def LineAct.level (now : Bool × Bool) : LineAct → Bool × Bool
  | .pull .data => (false, now.2)
  | .pull .clock => (now.1, false)
  | .release .data => (true, now.2)
  | .release .clock => (now.1, true)
  | .bothHigh | .clockHigh | .dataHigh | .dataLow | .sample | .answer => now

/-- The period of one clock at a lane speed, in nanoseconds (R87, R89). -/
def Speed.periodNs : Speed → Nat
  | .k100 => 10000
  | .k400 => 2500

/-- The bit periods of an item: nine for a byte with its answer; the conditions between bytes take none of their own in the manual's
count (R197). -/
def WireItem.bits : WireItem → Nat
  | .address _ _ | .writeByte _ | .readByte _ => 9
  | .start | .restart | .stop | .stopLow | .stopWatched | .pulse => 0

/-- The least time a sequence takes at a speed, in nanoseconds, before any stretching (R197). -/
def busNs (v : Speed) (items : List WireItem) : Nat := (items.map WireItem.bits).sum * v.periodNs

/-! ## Sequences -/

/-- The read bytes of an element: every one acknowledged but the last (R90). -/
def readItems : Nat → List WireItem
  | 0 => []
  | n + 1 => List.replicate n (.readByte false) ++ [.readByte true]

/-- What an element of an attempt, or a transfer of a sweep or of the Image Loader, asks of the wires. -/
structure Carried where
  kind : Kind
  address : BitVec 7
  writeData : List Byte
  readLen : Nat
  deriving DecidableEq, Repr

/-- What the element with this descriptor asks, its target having the address. -/
def Descriptor.carried (d : Descriptor) (a : BitVec 7) : Carried :=
  { kind := d.kind, address := a, writeData := d.writeData, readLen := d.readLen }

/-- What a visit's present transfer asks: the alert read is a WRITE_READ of one byte each way (R123), the write-back a WRITE of two bytes
(R125). -/
def Visit.carried (v : Visit) : Carried :=
  match v.stage with
  | .read => { kind := .writeRead, address := v.address, writeData := [v.alertReg], readLen := 1 }
  | .writeBack b => { kind := .write, address := v.address, writeData := [v.alertReg, b], readLen := 0 }

/-- An element's part of a sequence, without START and STOP (R90, R91). -/
def Carried.wires (c : Carried) : List WireItem :=
  match c.kind with
  | .write => .address c.address false :: c.writeData.map .writeByte
  | .read => .address c.address true :: readItems c.readLen
  | .writeRead =>
    [.address c.address false] ++ c.writeData.map .writeByte ++ [.restart, .address c.address true] ++ readItems c.readLen
  | .probe => [.address c.address false]

/-- The sequence of an attempt: one START, the elements divided by repeated STARTs, one STOP (R91). -/
def attemptWires (elements : List (List WireItem)) : List WireItem :=
  [.start] ++ (elements.intersperse [.restart]).flatten ++ [.stop]

/-- What the elements of lane x's current run ask of the wires, absent when the lane has none. -/
def State.runCarried (s : State) (x : LaneId) : Option (List Carried) :=
  (s.lane x).run.map fun r => (s.runEntries x r).map fun e => e.desc.carried (s.entry e.desc.target).cfg.address

/-- The sequence that the current run of lane x carries in each attempt, absent when the lane has none. -/
def State.runWires (s : State) (x : LaneId) : Option (List WireItem) :=
  (s.runCarried x).map fun cs => attemptWires (cs.map Carried.wires)

/-- The STOP sent after a NACK; `dataLow` says that the data line reads low when it is released to form it (R95, R96, R111). -/
def stopAfterNack (dataLow : Bool) : WireItem := if dataLow then .stopLow else .stop

/-- The part of an element up to a refused address byte; `second` is the read address of a WRITE_READ (R95). -/
def Carried.wiresToAddress (c : Carried) (second : Bool) : List WireItem :=
  if second then [.address c.address false] ++ c.writeData.map .writeByte ++ [.restart, .address c.address true]
  else [.address c.address (decide (c.kind = .read))]

/-- The part of an element up to a refused write byte after `acked` acknowledged ones (R96). -/
def Carried.wiresToWrite (c : Carried) (acked : Nat) : List WireItem :=
  .address c.address false :: (c.writeData.take (acked + 1)).map .writeByte

/-- The sequence of an attempt of lane x's run whose element k is refused after `part`: the elements before it whole, then its part,
then the STOP that follows the NACK (R95, R96). -/
def State.stoppedWires (s : State) (x : LaneId) (k : Nat) (part : Carried → List WireItem) (dataLow : Bool) :
    Option (List WireItem) :=
  (s.runCarried x).bind fun cs =>
    cs[k]?.map fun c =>
      [.start] ++ (((cs.take k).map Carried.wires ++ [part c]).intersperse [.restart]).flatten ++ [stopAfterNack dataLow]

/-- An address byte of element k is refused, and the STOP after it is formed or finds the data line low (R95). -/
def State.addressRefusedWires (s : State) (x : LaneId) (k : Nat) (second dataLow : Bool) : Option (List WireItem) :=
  s.stoppedWires x k (fun c => c.wiresToAddress second) dataLow

/-- A write byte of element k is refused, and the STOP after it is formed or finds the data line low (R96). -/
def State.writeRefusedWires (s : State) (x : LaneId) (k acked : Nat) (dataLow : Bool) : Option (List WireItem) :=
  s.stoppedWires x k (fun c => c.wiresToWrite acked) dataLow

/-- The pulses and the STOP of a recovery attempt: none with the clock low, nine with the data line held to the end (R108). -/
def RecoveryObs.wires : RecoveryObs → List WireItem
  | .clockHeld => []
  | .dataHeld => List.replicate 9 .pulse
  | .stopped pulses _ _ => List.replicate pulses .pulse ++ [.stopWatched]

/-- What the engine does with the lines in a recovery attempt: it releases the data line and looks at the clock, which fails the attempt at
once when it reads low; then come the pulses and the STOP (R108). -/
def RecoveryObs.acts (o : RecoveryObs) : List LineAct := [.release .data, .clockHigh] ++ lineActs (RecoveryObs.wires o)

/-- The sequence of a visit's present transfer: the alert read or the write-back (R123, R125). -/
def Visit.wires (v : Visit) : List WireItem := attemptWires [v.carried.wires]

/-- The sequence of a visit's present transfer when a byte is answered NACK: the address W, or the read address when `second`, with the
STOP that is formed or finds the data line low (R111, R123, R125). -/
def Visit.addressRefusedWires (v : Visit) (second dataLow : Bool) : List WireItem :=
  [.start] ++ v.carried.wiresToAddress second ++ [stopAfterNack dataLow]

/-- The same with a write byte answered NACK: the register index, or the byte written back once the index is acknowledged (R111,
R123, R125). -/
def Visit.writeRefusedWires (v : Visit) (acked : Nat) (dataLow : Bool) : List WireItem :=
  [.start] ++ v.carried.wiresToWrite acked ++ [stopAfterNack dataLow]

/-- The bus address of the image EEPROM (R195). -/
def Straps.imageAddress (p : Straps) : BitVec 7 := 0x50 + BitVec.ofNat 7 p.imga.val

/-- What an image transfer that reads n bytes asks of the wires: the two offset bytes, then the read (R197). -/
def imageCarried (p : Straps) (n : Nat) : Carried :=
  { kind := .writeRead, address := p.imageAddress, writeData := [0, 0], readLen := n }

/-- The sequence of an image transfer that reads n bytes (R197). -/
def imageWires (p : Straps) (n : Nat) : List WireItem := attemptWires [(imageCarried p n).wires]

/-- The least time of an image transfer that reads n bytes, at the loader's own speed, in nanoseconds (R197). -/
def imageNs (p : Straps) (n : Nat) : Nat := busNs imageSpeed (imageWires p n)

/-- The sequence of an image transfer that a NACK to the image address or to an offset byte ended, with its STOP (R199). What the loader
does when the data line reads low at that STOP is not stated: R98 leaves the STOP after a NACK to R95, R96 and R111, which speak of runs
and sweeps. That it sends the STOP and judges nothing more, the load having failed at the NACK, is the model's choice (DESIGN CHOICE, log
31). -/
def imageRefusedWires (p : Straps) (w : ImageNack) : List WireItem :=
  let opened : List WireItem := [.start, .address p.imageAddress false]
  match w with
  | .addressW => opened ++ [.stop]
  | .offset1 => opened ++ [.writeByte 0, .stop]
  | .offset2 => opened ++ [.writeByte 0, .writeByte 0, .stop]
  | .addressR => opened ++ [.writeByte 0, .writeByte 0, .restart, .address p.imageAddress true, .stop]

/-! ## Sequences that stop early (R92, R97, R98, R111, R199) -/

/-- A place in an attempt: the element on the wires, whether it is at its opening repeated START, and the write bytes acknowledged and
read bytes received of it. -/
structure Reach where
  elem : Nat
  opening : Bool
  written : Nat
  received : Nat
  deriving DecidableEq, Repr

/-- The place a row reports by the counts that were reached. -/
def Progress.reach (p : Progress) : Reach :=
  { elem := p.elem, opening := p.opening, written := p.written, received := p.part.length }

/-- These acts, all at one place. -/
def Reach.marks (q : Reach) (acts : List LineAct) : List (Reach × LineAct) := acts.map fun a => (q, a)

/-- What the engine does with the lines for an element, as the k-th of its attempt, each act with the place it falls at (R89, R90). A
write byte counts once its answer has been sampled, a read byte once its eight bits have: the NACK after the last finds it complete
(R98). -/
def Carried.acts (c : Carried) (k : Nat) : List (Reach × LineAct) :=
  let at' (written received : Nat) : List LineAct → List (Reach × LineAct) :=
    Reach.marks { elem := k, opening := false, written := written, received := received }
  let n := c.writeData.length
  let writes := c.writeData.zipIdx.flatMap fun (b, i) => at' i 0 (sentByte b)
  let reads := (List.range c.readLen).flatMap fun j =>
    at' n j receivedBits ++ at' n (j + 1) (sentBit (decide (j + 1 = c.readLen)))
  match c.kind with
  | .write => at' 0 0 (sentByte (addressByte c.address false)) ++ writes
  | .read => at' n 0 (sentByte (addressByte c.address true)) ++ reads
  | .writeRead =>
    at' 0 0 (sentByte (addressByte c.address false)) ++ writes ++ at' n 0 (WireItem.lines .restart)
      ++ at' n 0 (sentByte (addressByte c.address true)) ++ reads
  | .probe => at' 0 0 (sentByte (addressByte c.address false))

/-- An attempt before its STOP, each act with its place: a repeated START between elements belongs to the element it opens (R91). -/
def openActs (cs : List Carried) : List (Reach × LineAct) :=
  Reach.marks { elem := 0, opening := false, written := 0, received := 0 } (WireItem.lines .start)
    ++ cs.zipIdx.flatMap fun (c, k) =>
      (if k = 0 then []
        else Reach.marks { elem := k, opening := true, written := 0, received := 0 } (WireItem.lines .restart)) ++ c.acts k

/-- A whole attempt, each act with its place: the STOP belongs to the last element. -/
def attemptActs (cs : List Carried) : List (Reach × LineAct) :=
  openActs cs ++ match cs.getLast? with
    | some c => Reach.marks { elem := cs.length - 1, opening := false, written := c.writeData.length, received := c.readLen }
        (WireItem.lines .stop)
    | none => []

/-- The sequences that end with an act of place q which `stops` can stop at. -/
def stopsAt (stops : LineAct → Bool) (q : Reach) : List (Reach × LineAct) → List (List LineAct)
  | [] => []
  | (r, a) :: rest => (if r = q ∧ stops a then [[a]] else []) ++ (stopsAt stops q rest).map (a :: ·)

/-- An act at which the engine finds out that it has lost arbitration (R98). -/
def LineAct.loses : LineAct → Bool
  | .bothHigh | .dataHigh => true
  | .pull _ | .release _ | .clockHigh | .dataLow | .sample | .answer => false

/-- What the engine has done with its lines when it has lost arbitration at place q: a beginning of the sequence up to a moment R98 names,
then it lets go. One sequence for each such moment; the row reports the place and not the bit (log 27). -/
def lostActs (acts : List (Reach × LineAct)) (q : Reach) : List (List LineAct) := (stopsAt LineAct.loses q acts).map (· ++ letGo)

/-- What it has done when a clock hold at place q has exceeded the stretch limit: a beginning of the sequence up to a release of the clock
that does not rise, then it lets go (R92, R97, R111). -/
def heldActs (acts : List (Reach × LineAct)) (q : Reach) : List (List LineAct) :=
  (stopsAt (fun a => decide (a = .clockHigh)) q acts).map (· ++ letGo)

/-- The same where the clock is held in the STOP after a NACK to a byte of place q. R95 and R96 give the element the NACK's status, R92 and
R97 STRETCH_TIMEOUT; that the hold is taken under R97 is the model's choice (DESIGN CHOICE, log 35). -/
def heldAfterNackActs (acts : List (Reach × LineAct)) (q : Reach) : List (List LineAct) :=
  (stopsAt (fun a => decide (a = .answer)) q acts).map (· ++ stopToClock ++ letGo)

/-- The attempt of a run, or the transfer of a sweep, that is on the wires of lane x (R93, R111). -/
def State.carriedOn (s : State) (x : LaneId) : Option (List Carried) :=
  match s.visitOn x with
  | some (_, v) => some [v.carried]
  | none => (s.onWires x).bind fun _ => s.runCarried x

/-- What the engine of lane x does with its lines when it loses arbitration in what is on its wires, as ARBITRATION_LOSS reports it: one
of these (R98, R111). -/
def State.lostActs (s : State) (x : LaneId) (p : Progress) : List (List LineAct) :=
  ((s.carriedOn x).map fun cs => Machine.lostActs (attemptActs cs) (Progress.reach p)).getD []

/-- What it does when a clock hold exceeds the stretch limit in use, as STRETCH_TIMEOUT reports it: one of these (R92, R97, R111). -/
def State.heldActs (s : State) (x : LaneId) (p : Progress) : List (List LineAct) :=
  ((s.carriedOn x).map fun cs =>
    Machine.heldActs (attemptActs cs) (Progress.reach p) ++ heldAfterNackActs (attemptActs cs) (Progress.reach p)).getD []

/-- The speed of what is on the wires of lane x: an image transfer's own (R197), the copy a run took at its grant (R93), the copy a sweep took
at its beginning (R121), or, for a recovery attempt, the lane's as it now stands (R108, R112, R115). Absent with none of these. -/
def State.wireSpeed (s : State) (x : LaneId) : Option Speed :=
  let l := s.lane x
  match l.mode with
  | .load => if x = .A ∧ s.loader.phase = .transfer then some imageSpeed else none
  | .running => l.run.map (·.speed)
  | .sweep => if l.closing then none else l.sweep.map (·.speed)
  | .recovery => some l.speed
  | .idle | .foreign | .faulted => none

/-- The least time of the attempt or sweep transfer on the wires of lane x when it is carried whole, in nanoseconds (R89). -/
def State.wireNs (s : State) (x : LaneId) : Option Nat :=
  (s.carriedOn x).bind fun cs => (s.wireSpeed x).map fun v => busNs v (attemptWires (cs.map Carried.wires))

/-- What the engine of lane x does with its lines to close it, absent outside a closing phase: once the clock reads high it sends a STOP
and looks at both lines (R97, R111). What follows where a line does not read high is log 33. -/
def State.closingActs (s : State) (x : LaneId) : Option (List LineAct) :=
  if (s.lane x).closing then some (.clockHigh :: lineActs [.stopWatched]) else none

/-- The image transfer in progress, up to the end of the field being read or of the `n` bytes it reads. The STOP is judged after a valid
check alone (R198, R199). -/
def State.imageActs (s : State) (n : Nat) : List (Reach × LineAct) :=
  if s.loader.image.next.isNone then attemptActs [imageCarried s.straps n] else openActs [imageCarried s.straps n]

/-- What the loader does with the lines of lane A when it loses arbitration, as IMAGE_ARB_LOST reports it (R199). -/
def State.imageLostActs (s : State) (offsets : Nat) (field : List Byte) : List (List LineAct) :=
  let n := s.loader.image.received.length + field.length
  Machine.lostActs (s.imageActs (max 1 n)) { elem := 0, opening := false, written := offsets, received := n }

/-- What it does when a clock hold exceeds 25 ms, as IMAGE_STRETCH_TIMEOUT reports it in a transfer; there is no closing STOP (R199). The
byte after those received is under way or, at the end of a field or of the image, the answer to the last one is; a NACK to a field that fails
is such an answer (log 36). -/
def State.imageHeldActs (s : State) (offsets extra : Nat) : List (List LineAct) :=
  let im := s.loader.image
  let n := im.received.length + extra
  let q : Reach := { elem := 0, opening := false, written := offsets, received := n }
  (if im.next.isSome then Machine.heldActs (s.imageActs (n + 1)) q else [])
    ++ if im.next.all fun f => decide (extra = f.size) then Machine.heldActs (s.imageActs n) q else []

end Sys2Proof.Machine
end

