-- ==== Sys2Proof/Machine/Dispatch.lean ====
section
/-! DEFINITION. One arm per command. -/

namespace Sys2Proof.Machine

/-- The effect of a command on everything but the queue. -/
def exec (i : Instr) (s : State) : Host.Outcome State Fault Refusal :=
  match i with
  | .commandFrame v f o => Sys2Proof.Machine.execCommandFrame v f o s
  | .malformedFrame v bytes => Sys2Proof.Machine.execMalformedFrame v bytes s
  | .repeatFrame v f => Sys2Proof.Machine.execRepeatFrame v f s
  | .discardedFrame v bytes => Sys2Proof.Machine.execDiscardedFrame v bytes s
  | .responseRead v part => Sys2Proof.Machine.execResponseRead v part s
  | .ignoredTransfer v bytes => Sys2Proof.Machine.execIgnoredTransfer v bytes s
  | .unknownCommand v f => Sys2Proof.Machine.execUnknownCommand v f s
  | .submit h x d => Sys2Proof.Machine.execSubmit h x d s
  | .cancel h x tag => Sys2Proof.Machine.execCancel h x tag s
  | .resume h x => Sys2Proof.Machine.execResume h x s
  | .fetchCompletion h x => Sys2Proof.Machine.execFetchCompletion h x s
  | .retire h x tag => Sys2Proof.Machine.execRetire h x tag s
  | .fetchNotice h x => Sys2Proof.Machine.execFetchNotice h x s
  | .ackNotice h x => Sys2Proof.Machine.execAckNotice h x s
  | .lease h x index duration option => Sys2Proof.Machine.execLease h x index duration option s
  | .release h x index => Sys2Proof.Machine.execRelease h x index s
  | .leaseRevoke h x index => Sys2Proof.Machine.execLeaseRevoke h x index s
  | .tableRead h x index => Sys2Proof.Machine.execTableRead h x index s
  | .tableWriteDefine h x index r => Sys2Proof.Machine.execTableWriteDefine h x index r s
  | .tableWriteUndefine h x index r => Sys2Proof.Machine.execTableWriteUndefine h x index r s
  | .targetControlOnline h x index => Sys2Proof.Machine.execTargetControlOnline h x index s
  | .targetControlOffline h x index => Sys2Proof.Machine.execTargetControlOffline h x index s
  | .targetControlQuarantine h x index => Sys2Proof.Machine.execTargetControlQuarantine h x index s
  | .laneConfig h x lane speed enabled => Sys2Proof.Machine.execLaneConfig h x lane speed enabled s
  | .laneStatus h x lane o => Sys2Proof.Machine.execLaneStatus h x lane o s
  | .laneRestart h x lane o => Sys2Proof.Machine.execLaneRestart h x lane o s
  | .hostStatus h x host => Sys2Proof.Machine.execHostStatus h x host s
  | .hostConfig h x completions notices stopOnFault window => Sys2Proof.Machine.execHostConfig h x completions notices stopOnFault window s
  | .hostRights h x host rights cap lanes => Sys2Proof.Machine.execHostRights h x host rights cap lanes s
  | .detach h x => Sys2Proof.Machine.execDetach h x s
  | .traceClaim h x option => Sys2Proof.Machine.execTraceClaim h x option s
  | .traceRelease h x => Sys2Proof.Machine.execTraceRelease h x s
  | .traceControlSet h x r => Sys2Proof.Machine.execTraceControlSet h x r s
  | .traceControlClear h x => Sys2Proof.Machine.execTraceControlClear h x s
  | .traceControlOff h x => Sys2Proof.Machine.execTraceControlOff h x s
  | .traceRead h x index => Sys2Proof.Machine.execTraceRead h x index s
  | .deviceInfo h x => Sys2Proof.Machine.execDeviceInfo h x s
  | .deviceResetAssert => Sys2Proof.Machine.execDeviceResetAssert s
  | .deviceResetRelease p => Sys2Proof.Machine.execDeviceResetRelease p s
  | .hostResetAssert h => Sys2Proof.Machine.execHostResetAssert h s
  | .hostResetRelease h => Sys2Proof.Machine.execHostResetRelease h s
  | .alertInputFall lane => Sys2Proof.Machine.execAlertInputFall lane s
  | .alertInputRise lane => Sys2Proof.Machine.execAlertInputRise lane s
  | .foreignLineLow lane line => Sys2Proof.Machine.execForeignLineLow lane line s
  | .foreignStopSeen lane => Sys2Proof.Machine.execForeignStopSeen lane s
  | .idleLimit lane since => Sys2Proof.Machine.execIdleLimit lane since s
  | .stuckLimit lane line since r => Sys2Proof.Machine.execStuckLimit lane line since r s
  | .recoveryAttempt lane r => Sys2Proof.Machine.execRecoveryAttempt lane r s
  | .dispatcherChoice lane => Sys2Proof.Machine.execDispatcherChoice lane s
  | .attemptSuccess lane reads => Sys2Proof.Machine.execAttemptSuccess lane reads s
  | .addressNack lane elem done second dataLow => Sys2Proof.Machine.execAddressNack lane elem done second dataLow s
  | .writeByteNack lane elem done acked dataLow => Sys2Proof.Machine.execWriteByteNack lane elem done acked dataLow s
  | .arbitrationLoss lane p => Sys2Proof.Machine.execArbitrationLoss lane p s
  | .stretchTimeout lane p since => Sys2Proof.Machine.execStretchTimeout lane p since s
  | .closingStop lane clockHigh dataHigh => Sys2Proof.Machine.execClosingStop lane clockHigh dataHigh s
  | .leaseExpiry t => Sys2Proof.Machine.execLeaseExpiry t s
  | .waitDeadline h tag => Sys2Proof.Machine.execWaitDeadline h tag s
  | .chainWindowExpiry h => Sys2Proof.Machine.execChainWindowExpiry h s
  | .alertReadEnd lane e => Sys2Proof.Machine.execAlertReadEnd lane e s
  | .writeBackEnd lane e => Sys2Proof.Machine.execWriteBackEnd lane e s
  | .imageLoadStart since => Sys2Proof.Machine.execImageLoadStart since s
  | .imageFieldCheck bytes => Sys2Proof.Machine.execImageFieldCheck bytes s
  | .imageAddressNack w => Sys2Proof.Machine.execImageAddressNack w s
  | .imageArbLost offsets field => Sys2Proof.Machine.execImageArbLost offsets field s
  | .imageStretchTimeout since offsets extra => Sys2Proof.Machine.execImageStretchTimeout since offsets extra s
  | .imageDataStuck since => Sys2Proof.Machine.execImageDataStuck since s
  | .imageLoadSuccess => Sys2Proof.Machine.execImageLoadSuccess s
  | .imageWaitStopSeen => Sys2Proof.Machine.execImageWaitStopSeen s

end Sys2Proof.Machine
end

