-- ==== Sys2Proof/Machine/Step.lean ====
section
/-! DEFINITION. One step of the block, and the placing of a command at the front of the queue. -/

namespace Sys2Proof.Machine

/-- No command waits: the Time Base counts one microsecond (R193; DESIGN CHOICE, log 2). While a device reset is asserted it
stands (R193). -/
def State.tick (s : State) : State := if s.resetAsserted then s else { s with elapsed := s.elapsed + 1 }

/-- The command at the front of the queue is taken and has its effect; an empty queue lets a microsecond pass. -/
def step (s : State) : Host.Outcome State Fault Refusal :=
  match s.pending with
  | c :: rest => exec c { s with pending := rest }
  | [] => .next s.tick

/-- Puts the command that a table word spells at the front of the queue. -/
def State.withFetchWord (s : State) (nbits w : Nat) : State :=
  match decodeTableWord nbits w with
  | some c => { s with pending := c :: s.pending }
  | none => s

end Sys2Proof.Machine
end

