-- ==== Sys2Proof/Safety.lean ====
section
/-! DEFINITION. The terms the statements use: when a port hands a command on and how it is answered, how a Submission Queue
divides, and the laws that every state of a run keeps. -/

namespace Sys2Proof.Machine

/-! ## Commands -/

/-- The frame that carries a command. -/
def commandFrameOf (c : Cmd) (x : Byte) (p : List Byte) : Frame := { code := c.code, exch := x, payload := p }

/-- The host on whose port the row's transfer arrives, for the rows that are a transfer (R179). -/
def Instr.port : Instr → Option HostId
  | .commandFrame v _ _ | .malformedFrame v _ | .repeatFrame v _ | .discardedFrame v _ | .responseRead v _
  | .ignoredTransfer v _ | .unknownCommand v _ => some v.host
  | .submit h _ _ | .cancel h _ _ | .resume h _ | .fetchCompletion h _
  | .retire h _ _ | .fetchNotice h _ | .ackNotice h _ | .lease h _ _ _ _ | .release h _ _ | .leaseRevoke h _ _
  | .tableRead h _ _ | .tableWriteDefine h _ _ _ | .tableWriteUndefine h _ _ _ | .targetControlOnline h _ _
  | .targetControlOffline h _ _ | .targetControlQuarantine h _ _ | .laneConfig h _ _ _ _ | .laneStatus h _ _ _
  | .laneRestart h _ _ _ | .hostStatus h _ _ | .hostConfig h _ _ _ _ _ | .hostRights h _ _ _ _ _ | .detach h _
  | .traceClaim h _ _ | .traceRelease h _ | .traceControlSet h _ _ | .traceControlClear h _ | .traceControlOff h _
  | .traceRead h _ _ | .deviceInfo h _ => some h
  | .deviceResetAssert | .deviceResetRelease _ | .hostResetAssert _ | .hostResetRelease _ | .alertInputFall _
  | .alertInputRise _ | .foreignLineLow _ _ | .foreignStopSeen _ | .idleLimit _ _ | .stuckLimit _ _ _ _
  | .recoveryAttempt _ _ | .dispatcherChoice _ | .attemptSuccess _ _ | .addressNack _ _ _ _ _
  | .writeByteNack _ _ _ _ _ | .arbitrationLoss _ _ | .stretchTimeout _ _ _ | .closingStop _ _ _ | .leaseExpiry _
  | .waitDeadline _ _ | .chainWindowExpiry _ | .alertReadEnd _ _ | .writeBackEnd _ _ | .imageLoadStart _
  | .imageFieldCheck _ | .imageAddressNack _ | .imageArbLost _ _ | .imageStretchTimeout _ _ _ | .imageDataStuck _
  | .imageLoadSuccess | .imageWaitStopSeen => none

/-- The part takes what host h's port brings: no device reset is asserted, the host is ATTACHED and its port takes part in transfers
that begin now (R186, R193). -/
def State.listens (s : State) (h : HostId) : Bool := s.hears h 0

/-- The port executes a well-formed frame: the slot is EMPTY, or READY with another frame in the repeat memory (R182). -/
def State.executes (s : State) (h : HostId) (f : Frame) : Bool :=
  s.listens h && f.wf && !decide ((s.host h).port.slot = .pending) && !(s.host h).port.repeats f

/-- The port executes the command and the Command Unit hands it to the block that owns it: every check of R187 passes. -/
def State.accepts (s : State) (h : HostId) (c : Cmd) (x : Byte) (p : List Byte) : Bool :=
  s.executes h (commandFrameOf c x p) && (!s.loading || decide (c = .deviceInfo)) && c.permitted (s.host h).rights
    && (!c.fieldless || p.isEmpty)

/-- A port after the response to frame f is stored, SDOn having sent 0x00 on every byte of the frame (R179, R182, R183). -/
def Port.answered (q : Port) (f : Frame) (r : Reply) : Port :=
  { slot := .ready { status := r.status, exch := f.exch, payload := r.payload, discarded := false }
    memory := if r.status = .notReady then none else some (f.exch, Frame.check f)
    discarded := q.discarded
    captured := q.captured
    sdo := List.replicate (f.payload.length + 5) 0
    listensFrom := q.listensFrom }

/-- The state with the response r to a command of host h stored, and nothing else changed. -/
def State.answers (s : State) (h : HostId) (c : Cmd) (x : Byte) (p : List Byte) (r : Reply) : State :=
  s.updPort h fun q => q.answered (commandFrameOf c x p) r

/-- The states differ in host h's port alone. -/
def State.sameButPort (s t : State) (h : HostId) : Prop := ∃ q, t = s.updPort h fun _ => q

/-! ## Payloads in range -/

/-- A descriptor as it travels (R207). -/
def Descriptor.raw (d : Descriptor) : RawDescriptor :=
  { tag := d.tag, target := byteOf d.target.val, kind := kindByte d.kind, mark := markByte d.mark, cls := byteOf d.cls
    flags := boolByte d.requireLease ||| (boolByte d.noWait <<< 1) ||| (boolByte d.noRetry <<< 2)
    waitLimit := BitVec.ofNat 16 d.waitLimit, readLen := byteOf d.readLen, writeData := d.writeData }

/-- A descriptor within the ranges of R25 and R26. -/
def Descriptor.inRange (d : Descriptor) : Bool :=
  decide (d.cls ≤ 3 ∧ d.waitLimit < 65536) && lengthsFit d.kind d.writeData.length d.readLen

/-- Configurable fields within the ranges of R2. -/
def Settings.inRange (c : Settings) : Bool :=
  decide (0x08 ≤ c.address.toNat ∧ c.address.toNat ≤ 0x77 ∧ c.retryBudget ≤ 7 ∧ c.threshold ≤ 15 ∧ 1 ≤ c.stretch
    ∧ c.stretch ≤ 250)

/-! ## Submission Queues -/

/-- A SOLO entry, or the elements of one chain: an entry that continues none and the entries that continue it (R34). -/
def wholeWork : List SubEntry → Bool
  | [] => false
  | e :: es => !e.continues && es.all (·.continues)

/-- What follows does not continue the work before it. -/
def startsAfresh (es : List SubEntry) : Bool := es.head?.all fun e => !e.continues

/-- No work in the queue is an open chain. -/
def noOpenChain (es : List SubEntry) : Bool := (groups es).all fun g => !isOpen g

/-- Every SOLO entry or chain of the queue is QUEUED as a whole, or RUNNING as a whole on one lane (R83). -/
def uniform (es : List SubEntry) : Bool :=
  (groups es).all fun g =>
    g.all (·.queued) || g.all (fun e => decide (e.state = .running .A)) || g.all fun e => decide (e.state = .running .B)

/-- What the rules of chapter 02 make of a host's queue: work is QUEUED or RUNNING as a whole (R83), no two entries have the same tag
as another or as a completion record (R29), the queue begins with the start of work, only its last work can be an open chain, it is one exactly while the chain-assembly
record says so (R34), and an open chain is QUEUED (R70). -/
def HostCtx.queueFits (c : HostCtx) : Bool :=
  uniform c.sq && startsAfresh c.sq && decide ((c.sq.map (·.desc.tag) ++ c.cq.map (·.tag)).Nodup)
    && (groups c.sq).dropLast.all (fun g => !isOpen g)
    && ((groups c.sq).getLast?.any isOpen == c.chain.isSome)
    && (groups c.sq).all fun g => !isOpen g || g.all (·.queued)

/-! ## Entries and leases by rule -/

/-- What one final status does to its entry, against the threshold in use: OK clears the count, and restores a QUARANTINED entry
when a PROBE element ended so; ADDR_NACK and STRETCH_TIMEOUT count a fault; the others change nothing (R5, R6, R8, R11). -/
def TableEntry.tallied (e : TableEntry) (st : CStatus) (probe : Bool) (threshold : Nat) : TableEntry :=
  let n := if threshold = 0 ∨ e.faults = threshold then e.faults else e.faults + 1
  match st with
  | .ok => { e with faults := 0, state := if probe ∧ e.state = .quarantined then .online else e.state }
  | .addrNack | .stretchTimeout =>
    { e with
      faults := min n e.cfg.threshold
      state := if threshold ≠ 0 ∧ n = threshold ∧ e.state = .online then .quarantined else e.state }
  | _ => e

/-- Host h, which is c before it, after entry t, which is e, has entered quarantine: a subscriber takes QUARANTINED, and the host's
QUEUED work to t that is not PROBE ends, whole chains with it (R8, R9, R10). -/
def HostCtx.afterQuarantine (c : HostCtx) (h : HostId) (t : TargetId) (e : TableEntry) (now : Stamp) : HostCtx :=
  HostCtx.endWork (if hostIn e.cfg.subscribers h then c.takeNotice .quarantined (.target t) 0 now else c)
    (fun g => g.any fun i => decide (i.desc.target = t ∧ i.desc.kind ≠ .probe))
    (fun i => if i.desc.target = t then .targetQuarantined else .chainBroken) now

/-- Host h, which is c before it, after a final status has made e' of entry t, which was e: a quarantine or a restore that it brings is
told and has its effects (R6, R8, R11). -/
def HostCtx.afterStatus (c : HostCtx) (h : HostId) (t : TargetId) (e e' : TableEntry) (now : Stamp) : HostCtx :=
  if e.state = .online ∧ e'.state = .quarantined then c.afterQuarantine h t e now
  else if e.state = .quarantined ∧ e'.state = .online ∧ hostIn e.cfg.subscribers h then
    c.takeNotice .restored (.target t) 0 now
  else c

/-- Host h after entry t of the state has entered quarantine. -/
def State.hostAfterQuarantine (s : State) (t : TargetId) (h : HostId) : HostCtx :=
  (s.host h).afterQuarantine h t (s.entry t) s.stamp

/-- Host h after a final status has gone to entry t of the state. -/
def State.hostAfterStatus (s : State) (t : TargetId) (st : CStatus) (probe : Bool) (threshold : Nat) (h : HostId) : HostCtx :=
  (s.host h).afterStatus h t (s.entry t) ((s.entry t).tallied st probe threshold) s.stamp

/-- A lease record after a grant check: FREE with waiters it is granted to the head waiter, unless a touching run of another host
is in flight, which `blocked` says of a host (R54, R55). -/
def Lease.checked (l : Lease) (now : Nat) (blocked : HostId → Bool) : Lease :=
  match l.state, l.waiters with
  | .free, w :: ws =>
    if blocked w.host then l else { state := .held w.host, expiry := expiryTick now w.duration, waiters := ws }
  | _, _ => l

/-- A lease record after the end of a run of host h that touched its entry: a lease ENDING for h finishes, and a FREE one gets a
grant check (R54, R57). -/
def Lease.afterRun (l : Lease) (h : HostId) (now : Nat) (blocked : HostId → Bool) : Lease :=
  match l.state with
  | .ending g _ => if g = h then { l with state := .free }.checked now blocked else l
  | .held _ | .free => l.checked now blocked

/-- A lease record after the teardown of host h: `touched` says that a run of h touches the entry (R64). -/
def Lease.tornDown (l : Lease) (h : HostId) (now : Nat) (touched : Bool) (blocked : HostId → Bool) : Lease :=
  let rest := { l with waiters := l.waiters.filter fun w => decide (w.host ≠ h) }
  match l.state with
  | .held g =>
    if g ≠ h then rest
    else if touched then { rest with state := .ending h .released }
    else { rest with state := .free }.checked now blocked
  | .ending g _ => if g = h then { rest with state := .ending h .released } else rest
  | .free => if l.waiters.head?.map (·.host) = some h then rest.checked now blocked else rest

/-- Host h, which is c before it, takes LEASE_GRANTED for target t when an event that makes l' of its lease record l grants it (R55). -/
def HostCtx.toldGrant (c : HostCtx) (h : HostId) (t : TargetId) (l l' : Lease) (now : Stamp) : HostCtx :=
  if l.state ≠ .held h ∧ l'.state = .held h then c.takeNotice .leaseGranted (.target t) 0 now else c

/-- Host h, which is c before it, after the end of a run of host g that touched target t has made l' of its lease record l. A lease that
was ENDING for g finishes: g's QUEUED work that carries REQUIRE_LEASE for t ends, whole chains with it (R58), and g takes LEASE_ENDED
with the reason unless the lease was released (R59); then the host granted takes LEASE_GRANTED (R55, R57). -/
def HostCtx.afterLeaseRun (c : HostCtx) (h g : HostId) (t : TargetId) (l l' : Lease) (now : Stamp) : HostCtx :=
  let flagged (e : SubEntry) : Bool := decide (e.desc.target = t ∧ e.desc.requireLease = true)
  let finished := match l.state with
    | .ending k r =>
      if k = g ∧ h = g then
        let searched := c.endWork (fun w => w.any flagged) (fun e => if flagged e then .leaseLost else .chainBroken) now
        if r = EndReason.released then searched else searched.takeNotice .leaseEnded (.target t) (endReasonByte r) now
      else c
    | .held _ | .free => c
  finished.toldGrant h t l l' now

/-! ## What a teardown and the end of a run leave -/

/-- What a teardown of host h leaves: no QUEUED entry, no record, no notice, no marker, no open chain, not paused; its RUNNING
entries stay, those of the runs it is the first teardown to find become discarded running entries, and the credits of what was
removed return; each lease is as R64 gives, so that h holds none in state HELD and waits for none; the trace loses its claim; a
restart it called will answer nobody; its rights and settings and the lanes' runs stay. Every other host is as it was, but that a waiter
granted a lease takes LEASE_GRANTED, in ascending table index (R55, R64, R115, R173 to R175; the order is log 14). -/
def State.tornDown (s u : State) (h : HostId) : Prop :=
  let c := s.host h
  let d := u.host h
  d.sq = c.sq.filter (fun e => decide (e.state ≠ .queued)) ∧ d.cq = [] ∧ d.nq = [] ∧ d.chain = none ∧ d.paused = false
    ∧ d.presentedTag = none ∧ d.presentedNotice = false ∧ d.overflow = false ∧ d.overflowSeen = false
    ∧ d.credits = c.credits + (c.sq.filter fun e => decide (e.state = .queued)).length + c.cq.length
    ∧ d.discardedRunning = c.discardedRunning +
        ([LaneId.A, .B].map fun x =>
          if (s.lane x).run.any fun r => decide (r.host = h ∧ r.discarded = false) then (c.runningOn x).length else 0).sum
    ∧ d.rights = c.rights ∧ d.complEnable = c.complEnable ∧ d.noticeEnable = c.noticeEnable ∧ d.stopOnFault = c.stopOnFault
    ∧ d.window = c.window
    ∧ (∀ t, (u.entry t).lease = (s.entry t).lease.tornDown h s.elapsed (s.touchedBy t h) (s.touchedByOther t))
    ∧ (∀ t, (u.entry t).lease.state ≠ .held h) ∧ (∀ t, ∀ w ∈ (u.entry t).lease.waiters, w.host ≠ h)
    ∧ u.trace = { s.trace with claimant := if s.trace.claimant = some h then none else s.trace.claimant }
    ∧ (∀ t, (u.entry t).state = (s.entry t).state ∧ (u.entry t).cfg = (s.entry t).cfg
        ∧ (u.entry t).faults = (s.entry t).faults)
    ∧ (∀ g, g ≠ h → u.host g = allTargets.foldl (fun e t => e.toldGrant g t (s.entry t).lease (u.entry t).lease s.stamp) (s.host g))
    ∧ (∀ x, u.lane x = { s.lane x with
        run := (s.lane x).run.map fun r => { r with discarded := r.discarded || decide (r.host = h) }
        restart := (s.lane x).restart.map fun k => { k with live := k.live && decide (k.caller ≠ h) } })

/-- The result of element k among these, or of an element that was not carried. -/
def resultAt (results : List ElemResult) (k : Nat) : ElemResult :=
  results.getD k { status := .chainBroken, written := 0, reads := [] }

/-- The record offered to the trace for element e, the k-th of run r of lane y (R103). -/
def elementRecord (y : LaneId) (r : Run) (results : List ElemResult) (now : Stamp) (e : SubEntry) (k : Nat) : TraceRecord :=
  { seq := 0, runType := .hostRun, host := some r.host, tag := some e.desc.tag, target := some e.desc.target, lane := y
    kind := e.desc.kind, mark := e.desc.mark, status := (resultAt results k).status, attempts := r.attempt
    bytesOut := (resultAt results k).written, bytesIn := (resultAt results k).reads.length, start := stampAt r.start, stop := now }

/-- The run's own host, which is c before it, once its entries `es` have left the queue: a batch of records is appended, or, of a
discarded run, the credits return (R101, R102, R175). -/
def HostCtx.afterOwnRun (c : HostCtx) (y : LaneId) (r : Run) (results : List ElemResult) (es : List SubEntry) (now : Stamp) : HostCtx :=
  let left := { c with sq := c.sq.filter fun (e : SubEntry) => decide (e.state ≠ WorkState.running y) }
  if r.discarded then
    { left with credits := c.credits + es.length, discardedRunning := c.discardedRunning - es.length }
  else
    left.appendRecords (es.zipIdx.map fun ((e, k) : SubEntry × Nat) =>
      { tag := e.desc.tag, status := (resultAt results k).status, target := e.desc.target, kind := e.desc.kind, mark := e.desc.mark
        attempts := r.attempt, written := (resultAt results k).written, readData := (resultAt results k).reads, finish := now
        pausedMark := false })

/-- Host h, which is c before it, after the statuses of these elements, each with its place, have gone to the Target Table in order;
`entries` is the table before them (R5, R6, R8, R9, R11). -/
def HostCtx.afterStatuses (h : HostId) (r : Run) (results : List ElemResult) (now : Stamp) :
    List (SubEntry × Nat) → (TargetId → TableEntry) → HostCtx → HostCtx
  | [], _, c => c
  | (e, k) :: rest, entries, c =>
    let t := e.desc.target
    let counted := (entries t).tallied (resultAt results k).status (decide (e.desc.kind = .probe)) (r.policy k).threshold
    HostCtx.afterStatuses h r results now rest (fun v => if v = t then counted else entries v) (c.afterStatus h t (entries t) counted now)

/-- Host h, which is c before it, after these records have been offered in order to a trace that is t before them: when one stops it,
the claimant takes TRACE_STOPPED with the reason (R160). -/
def HostCtx.afterOffers (h : HostId) (now : Stamp) : List TraceRecord → Trace → HostCtx → HostCtx
  | [], _, c => c
  | rec' :: rest, t, c =>
    HostCtx.afterOffers h now rest (t.offer rec').1
      (match (t.offer rec').2 with
        | some detail => if t.claimant = some h then c.takeNotice .traceStopped .none detail now else c
        | none => c)

/-- Host h after the end of run r of lane y, which finds it as `c` and the trace as `before`: first the run's own host loses its entries
(R101), then the Target Table takes the statuses (R5), then comes the search of a lane fault, which `search` stands for (R43, R58), then
the Lease Unit acts on each target once, in element order (R57; the order is log 14), and last the trace offers are made (R102, R103; last
is log 28). -/
def State.hostAfterRun (s : State) (y : LaneId) (r : Run) (results : List ElemResult) (before : Trace) (search : HostCtx → HostCtx)
    (h : HostId) (c : HostCtx) : HostCtx :=
  let es := (s.host r.host).runningOn y
  let gone := s.updLane y fun l => { l with run := none }
  let own := if h = r.host then c.afterOwnRun y r results es s.stamp else c
  let counted := search (HostCtx.afterStatuses h r results s.stamp es.zipIdx s.entry own)
  let leased := (runTargets es).foldl (fun d t =>
    let l := (s.entry t).lease
    d.afterLeaseRun h r.host t l (l.afterRun r.host s.elapsed fun g => gone.touchedByOther t g) s.stamp) counted
  HostCtx.afterOffers h s.stamp (es.zipIdx.map fun (e, k) => elementRecord y r results s.stamp e k) before leased

/-- What holds after run r of lane y has ended with these results, the trace being `before` when its records are offered. Its entries
have left the queue; its records stand behind what the Completion Queue held, ahead of every record that the end of the run produced
besides, or, of a discarded run, its credits return and the count of discarded running entries falls by their number (R101, R102,
R175). Each element's status has gone to its entry in element order (R5). Each target's lease has finished or had its grant check,
with the run no longer in flight (R54, R57). Each element was offered to the trace (R103). Every other lane is as it was. -/
def State.runEnded (s u : State) (y : LaneId) (r : Run) (results : List ElemResult) (before : Trace) : Prop :=
  let c := s.host r.host
  let es := c.runningOn y
  let recs := es.zipIdx.map fun (e, k) => runRecord { r with results := results } s.stamp e k
  let gone := s.updLane y fun l => { l with run := none }
  (u.lane y).run = none ∧ (∀ z, z ≠ y → u.lane z = s.lane z)
    ∧ (∀ e ∈ (u.host r.host).sq, e.state ≠ .running y)
    ∧ (r.discarded = false →
        (∃ more, (u.host r.host).cq = (c.appendRecords recs).cq ++ more) ∧ (u.host r.host).credits = c.credits
          ∧ ((c.appendRecords recs).paused = true → (u.host r.host).paused = true)
          ∧ (u.host r.host).discardedRunning = c.discardedRunning)
    ∧ (r.discarded = true → (u.host r.host).credits = c.credits + es.length
        ∧ (u.host r.host).discardedRunning = c.discardedRunning - es.length)
    ∧ (∀ v,
        let e' := es.zipIdx.foldl (fun (d : TableEntry) (e, k) =>
          if e.desc.target = v then
            d.tallied (resultAt results k).status (decide (e.desc.kind = .probe)) (r.policy k).threshold
          else d) (s.entry v)
        (u.entry v).state = e'.state ∧ (u.entry v).faults = e'.faults ∧ (u.entry v).cfg = (s.entry v).cfg
          ∧ (u.entry v).lease =
              if ∃ e ∈ es, e.desc.target = v then
                (s.entry v).lease.afterRun r.host s.elapsed fun g => gone.touchedByOther v g
              else (s.entry v).lease)
    ∧ u.trace = es.zipIdx.foldl (fun t (e, k) => (t.offer (elementRecord y r results s.stamp e k)).1) before

/-- The run has ended on its own attempt: `runEnded` holds, and every host is as `hostAfterRun` gives, with no search between. -/
def State.runDone (s u : State) (y : LaneId) (r : Run) (results : List ElemResult) : Prop :=
  s.runEnded u y r results s.trace ∧ ∀ h, u.host h = s.hostAfterRun y r results s.trace id h (s.host h)

/-- The results of an attempt that stopped at element k: OK with all its bytes before it, `here` at it, CHAIN_BROKEN without bytes
after it (R100). -/
def attemptResults (es : List SubEntry) (done : List (List Byte)) (k : Nat) (here : ElemResult) : List ElemResult :=
  es.zipIdx.map fun (e, i) =>
    if i < k then { status := .ok, written := e.desc.writeData.length, reads := done.getD i [] }
    else if i = k then here else { status := .chainBroken, written := 0, reads := [] }

/-! ## Offers, sweeps and restarts -/

/-- What host h, which is c before it, is after an offer of this record: when the record stops the trace, the claimant takes
TRACE_STOPPED with the reason (R160). -/
def State.hostAfterOffer (s : State) (r : TraceRecord) (h : HostId) (c : HostCtx) : HostCtx :=
  match (s.trace.offer r).2 with
  | some detail => if s.trace.claimant = some h then c.takeNotice .traceStopped .none detail s.stamp else c
  | none => c

/-- The record a recovery sequence offers at its end (R109). -/
def recoveryRecord (x : LaneId) (ok : Bool) (attempts start now : Nat) : TraceRecord :=
  { seq := 0, runType := .recovery, host := none, tag := none, target := none, lane := x, kind := .probe, mark := .solo
    status := if ok then .ok else .laneFaulted, attempts := attempts, bytesOut := 0, bytesIn := 0, start := stampAt start
    stop := stampAt now }

/-- What holds after the restart k of lane y has ended, with so many attempts of a sequence begun at `start` (R109, R114, R115,
R185). On success the lane is IDLE, the latch is looked at again (R120) and each ATTACHED host takes LANE_RESTORED; otherwise the
lane is FAULTED again and the search of R43 has been made. A caller not torn down since has its response. -/
def State.restartEnded (s u : State) (y : LaneId) (k : Restart) (attempts start : Nat) (ok : Bool) : Prop :=
  let rec' := recoveryRecord y ok attempts start s.elapsed
  let told (g : HostId) : HostCtx := s.hostAfterOffer rec' g (s.host g)
  u.lane y = { s.lane y with
      mode := if ok then .idle else .faulted, closing := false, recovery := none, restart := none
      clockLowFrom := if ok then none else (s.lane y).clockLowFrom
      dataLowFrom := if ok then none else (s.lane y).dataLowFrom
      masked := if ok then (s.lane y).masked && (s.lane y).alertLow else (s.lane y).masked }
    ∧ (∀ z, z ≠ y → u.lane z = s.lane z) ∧ u.table = s.table ∧ u.trace = (s.trace.offer rec').1
    ∧ (∀ g, { u.host g with port := (s.host g).port } =
        if ok then (if (s.host g).attached then (told g).takeNotice .laneRestored (.lane y) 0 s.stamp else told g)
        else (told g).endWork (fun w => w.any fun e => decide ((s.entry e.desc.target).cfg.lane = y)) (fun _ => .laneFaulted)
          s.stamp)
    ∧ (k.live = true → (u.host k.caller).port.slot = .ready
          { status := if ok then .done else .restartFailed, exch := k.exch, payload := [laneByte y, if ok then 0 else 5]
            discarded := (s.host k.caller).port.discarded }
        ∧ (u.host k.caller).port.memory = some (k.exch, k.check) ∧ (u.host k.caller).port.discarded = false)
    ∧ ∀ g, (g ≠ k.caller ∨ k.live = false) → (u.host g).port = (s.host g).port

/-- Entry t is a member a sweep of lane x would visit (R122). -/
def State.visitable (s : State) (x : LaneId) (t : TargetId) : Prop :=
  (s.entry t).state = .online ∧ (s.entry t).cfg.lane = x ∧ (s.entry t).cfg.sweepMember = true

/-- Entry t is the next member of a sweep of lane x at this visit position: the lowest above it (R122). -/
def State.visitsNext (s : State) (x : LaneId) (pos : Option TargetId) (t : TargetId) : Prop :=
  s.visitable x t ∧ (∀ p, pos = some p → p < t) ∧ ∀ v, v < t → (∀ p, pos = some p → p < v) → ¬s.visitable x v

/-- What the lane is after a visit of sweep w has ended, `u` being the state after it: with a next member its visit has begun, and
without one the sweep has ended, masking the latch when it found nothing with the input enabled and low (R122, R127). -/
def State.sweepGoesOn (s u : State) (x : LaneId) (w : Sweep) : Prop :=
  (∀ t, u.visitsNext x w.position t →
      u.lane x = { s.lane x with
        mode := .sweep, closing := false, clockLowFrom := some s.elapsed, dataLowFrom := some s.elapsed
        sweep := some { w with
          position := some t
          visit := some { target := t, address := (u.entry t).cfg.address, alertReg := (u.entry t).cfg.alertReg
                          alertClear := (u.entry t).cfg.alertClear, stretch := (u.entry t).cfg.stretch, stage := .read
                          start := s.elapsed } } })
    ∧ ((∀ t, ¬u.visitsNext x w.position t) →
        u.lane x = { s.lane x with
          mode := .idle, closing := false, clockLowFrom := none, dataLowFrom := none, sweep := none, grantOwed := true
          masked := (s.lane x).masked || (!w.found && (s.lane x).alertEnabled && (s.lane x).alertLow) })

/-- Host h after a visit of sweep w has ended, c being the host before the sweep went on: at an end that masks the latch a host with
ADMIN takes ALERT_UNRESOLVED (R127). `u` is the state after it. -/
def State.hostAfterVisit (s u : State) (x : LaneId) (w : Sweep) (h : HostId) (c d : HostCtx) : Prop :=
  ((∃ t, u.visitsNext x w.position t) → d = c)
    ∧ ((∀ t, ¬u.visitsNext x w.position t) →
        d = if w.found = false ∧ (s.lane x).alertEnabled = true ∧ (s.lane x).alertLow = true ∧ (s.host h).rights.admin = true then
          c.takeNotice .alertUnresolved (.lane x) 0 s.stamp else c)

/-- The record a sweep transfer offers at its end (R126). -/
def transferRecord (x : LaneId) (v : Visit) (st : CStatus) (out inn now : Nat) : TraceRecord :=
  { seq := 0, runType := .sweep, host := none, tag := none, target := some v.target, lane := x
    kind := if v.stage = .read then .writeRead else .write, mark := .solo, status := st, attempts := 1, bytesOut := out
    bytesIn := inn, start := stampAt v.start, stop := stampAt now }

/-- A sweep transfer of visit v has been handed over: its status went to the visited entry, against the threshold the entry has, and
one record was offered to the trace (R7, R126). The other lane is as it was. -/
def State.handedOver (s u : State) (x : LaneId) (v : Visit) (st : CStatus) (out inn : Nat) : Prop :=
  (∀ t, u.entry t = if t = v.target then (s.entry t).tallied st false (s.entry t).cfg.threshold else s.entry t)
    ∧ u.trace = (s.trace.offer (transferRecord x v st out inn s.elapsed)).1
    ∧ ∀ z, z ≠ x → u.lane z = s.lane z

/-- Host h after that hand-over alone. -/
def State.hostAfterTransfer (s : State) (x : LaneId) (v : Visit) (st : CStatus) (out inn : Nat) (h : HostId) : HostCtx :=
  s.hostAfterOffer (transferRecord x v st out inn s.elapsed) h
    (s.hostAfterStatus v.target st false (s.entry v.target).cfg.threshold h)

/-! ## Laws -/

/-- Free credits, submission entries and completion records come to 16 (R30). -/
def State.creditLaw (s : State) : Prop :=
  ∀ h, (s.host h).credits + (s.host h).sq.length + (s.host h).cq.length = Config.credits

/-- Every host's Submission Queue has its form. -/
def State.queueLaw (s : State) : Prop := ∀ h, (s.host h).queueFits = true

/-- No Notice Queue holds more than 12 records (R139), no wait list more than 3 items (R50), and no fault count is above its
entry's threshold (R2). -/
def State.boundsLaw (s : State) : Prop :=
  (∀ h, (s.host h).nq.length ≤ Config.noticeCapacity)
    ∧ ∀ t, (s.entry t).lease.waiters.length ≤ Config.waitListCapacity ∧ (s.entry t).faults ≤ (s.entry t).cfg.threshold

/-- What the queues' markers and the lists promise: the presented-completion marker names the head record (R135), a presented notice
is there (R144), no two ALERT records that are not presented have the same subject (R139, R142), no wait list holds a host twice,
and none holds the lease's holder (R50). -/
def State.recordsLaw (s : State) : Prop :=
  (∀ h, let c := s.host h
      (∀ tag, c.presentedTag = some tag → c.cq.head?.map (·.tag) = some tag) ∧ (c.presentedNotice = true → c.nq ≠ [])
        ∧ (((if c.presentedNotice then c.nq.drop 1 else c.nq).filter fun n => decide (n.kind = .alert)).map (·.subject)).Nodup)
    ∧ ∀ t, let l := (s.entry t).lease
      (l.waiters.map (·.host)).Nodup ∧ ∀ w ∈ l.waiters, l.state ≠ .held w.host ∧ ∀ r, l.state ≠ .ending w.host r

/-- At least one host holds the ADMIN right (R170). -/
def State.adminLaw (s : State) : Prop := ∃ h, (s.host h).rights.admin = true

/-- No two defined entries have the same lane and address (R1). -/
def State.uniqueAddresses (s : State) : Prop :=
  ∀ t u, (s.entry t).state ≠ .undefined → (s.entry u).state ≠ .undefined →
    (s.entry t).cfg.lane = (s.entry u).cfg.lane → (s.entry t).cfg.address = (s.entry u).cfg.address → t = u

/-- The image entries read so far have different places on the lanes (R198). -/
def Image.distinct (im : Image) : Prop := im.entries.Pairwise fun c d => ¬(c.lane = d.lane ∧ c.address = d.address)

/-- While the load is in progress the table is all UNDEFINED (R193, R197); the loader is at work only then (R196). -/
def State.loadLaw (s : State) : Prop :=
  (s.loader.phase ≠ .none → s.loader.state = .loading)
    ∧ (s.loader.state = .loading → ∀ t, (s.entry t).state = .undefined) ∧ s.loader.image.distinct

/-- The work in the Submission Queues fits the table. Each entry names a defined target and has a bypass count of 8 at most (R14, R82);
the elements of a chain name targets on one lane, which is the chain-assembly record's while the chain is open (R34, R70); their bypass
counts are equal, and 0 while the chain is open (R70, R82). The form of the queues and the law of the image load, which the keeping of
these needs, are part of it. -/
def State.workLaw (s : State) : Prop :=
  s.queueLaw ∧ s.loadLaw ∧ ∀ h, let c := s.host h
    (∀ e ∈ c.sq, (s.entry e.desc.target).state ≠ .undefined ∧ e.bypass ≤ 8)
      ∧ ∀ g ∈ groups c.sq,
        (∀ e ∈ g, ∀ i ∈ g, (s.entry e.desc.target).cfg.lane = (s.entry i.desc.target).cfg.lane ∧ e.bypass = i.bypass)
          ∧ (isOpen g = true → ∀ e ∈ g, e.bypass = 0 ∧ c.chain.map (·.lane) = some (s.entry e.desc.target).cfg.lane)

/-- R1 holds in the table and will hold in the table the image defines. -/
def State.tableLaw (s : State) : Prop := s.uniqueAddresses ∧ s.loadLaw

/-- The fields of a lane fit its state (R88): a run in RUNNING, FOREIGN or RECOVERY, a sweep in SWEEP, a recovery sequence in
RECOVERY and a restart only there, a closing phase in RUNNING without a run or in SWEEP. -/
def Lane.fits (l : Lane) : Bool :=
  (!l.run.isSome || decide (l.mode = .running ∨ l.mode = .foreign ∨ l.mode = .recovery))
    && (l.sweep.isSome == decide (l.mode = .sweep))
    && (l.recovery.isSome == decide (l.mode = .recovery))
    && (!l.restart.isSome || decide (l.mode = .recovery) && !l.run.isSome)
    && (!l.closing || decide (l.mode = .sweep) || decide (l.mode = .running) && !l.run.isSome)
    && (!decide (l.mode = .running) || l.closing || l.run.isSome)

/-- While no device reset is asserted, both lanes fit their states, lane A is in LOAD exactly while the loader is at work and
lane B never is (R87, R88). -/
def State.laneLaw (s : State) : Prop :=
  s.resetAsserted = false →
    s.laneA.fits = true ∧ s.laneB.fits = true ∧ (s.laneA.mode = .load ↔ s.loader.phase ≠ .none) ∧ s.laneB.mode ≠ .load

/-- A PENDING slot waits for a restart of its own host that is in progress (R185). -/
def State.pendingLaw (s : State) : Prop :=
  s.resetAsserted = false → ∀ h, (s.host h).port.slot = .pending →
    ∃ x k, (s.lane x).restart = some k ∧ k.caller = h ∧ k.live = true

/-- The laws of the lanes and of the PENDING slots together. -/
def State.engineLaw (s : State) : Prop := s.laneLaw ∧ s.pendingLaw

end Sys2Proof.Machine
end

