-- ==== Sys2Proof/Certificates/Slice0/Obligations.lean ====
section
/-! DEFINITION. The statements for the provers. Each formalises rules of spec/, named in its docstring; where a clause rests on a
choice of the model, the docstring names the entry of the assumption log. -/

section
open Sys2Proof Sys2Proof.Machine

/-! ## The block: its step, its queue, its device reset -/

/-- A step takes the command at the front of the queue and has its effect on the rest. That commands wait in a queue and that a step
takes its front are the model's choices (log 1, log 2); that a command is taken whole, one after another, is R192. -/
def Obligations.StepRunsFrontCommand : Prop :=
  ∀ (c : Instr) (rest : List Instr) (s : State),
    s.pending = c :: rest → step s = exec c { s with pending := rest }

/-- Every command has its effect as one whole step, and none touches the commands that wait behind it (R192); with no command
waiting a step lets one microsecond of the Time Base pass (R193). That commands wait in a queue and that time passes when it is empty
are the model's choices (log 1, log 2). -/
def Obligations.CommandsCompleteAndTimePasses : Prop :=
  (∀ (c : Instr) (s : State), ∃ t, exec c s = .next t ∧ t.pending = s.pending)
  ∧ ∀ s : State, s.pending = [] → s.resetAsserted = false → step s = .next { s with elapsed := s.elapsed + 1 }

/-- The assertion of a device reset abandons every run, sweep, recovery sequence, restart, closing and image transfer, and releases
every attention line (R116, R193); what the queues, the table and the trace hold stands until the release (log 25). While it is asserted
the part acts on no event but the two of the reset line (R193). The release gives every block its reset values (R3, R49, R69, R87,
R151, R152, R167 to R169, R178, R193, R195, R196), with the levels of the pins at the release; the expiry time of a FREE lease is the
model's choice (log 21). -/
def Obligations.DeviceResetHoldsAndReleases : Prop :=
  (∀ s : State, ∃ t, exec .deviceResetAssert s = .next t ∧ t.resetAsserted = true
      ∧ (∀ h, t.attn h = false)
      ∧ (∀ x, (t.lane x).run = none ∧ (t.lane x).sweep = none ∧ (t.lane x).recovery = none ∧ (t.lane x).restart = none
          ∧ (t.lane x).closing = false)
      ∧ t.loader.phase = .none
      ∧ t.table = s.table ∧ t.trace = s.trace ∧ t.elapsed = s.elapsed ∧ t.pending = s.pending
      ∧ ∀ h, (t.host h).sq = (s.host h).sq ∧ (t.host h).cq = (s.host h).cq ∧ (t.host h).nq = (s.host h).nq
          ∧ (t.host h).port.captured = none)
  ∧ (∀ (c : Instr) (s : State), s.resetAsserted = true → c ≠ .deviceResetAssert → (∀ p, c ≠ .deviceResetRelease p) →
      exec c s = .next s)
  ∧ ∀ (p : ResetPins) (s : State), s.resetAsserted = true → ∃ t, exec (.deviceResetRelease p) s = .next t
    ∧ t.resetAsserted = false ∧ t.elapsed = 0 ∧ t.straps = { adm := p.adm, imgen := p.imgen, imga := p.imga }
    ∧ t.loader.state = (if p.imgen then .loading else .noImage) ∧ t.loader.reason = none
    ∧ (∀ e, t.entry e =
        { state := .undefined
          cfg := { lane := .A, address := 0x08, access := 0, subscribers := 0, retryBudget := 0, retryOnNack := false
                   threshold := 0, stretch := 250, sweepMember := false, alertReg := 0x00, alertClear := false }
          faults := 0, lease := { state := .free, expiry := 0, waiters := [] } })
    ∧ (∀ h, (t.host h).attached = hostIn p.hostHigh h
        ∧ (t.host h).rights = (if h = p.adm then { admin := true, lease := true, trace := true, cap := 3, lanes := 0b11 }
            else { admin := false, lease := true, trace := true, cap := 2, lanes := 0b11 })
        ∧ (t.host h).credits = 16 ∧ (t.host h).complEnable = true ∧ (t.host h).noticeEnable = true
        ∧ (t.host h).stopOnFault = false ∧ (t.host h).paused = false ∧ (t.host h).window = 20 ∧ (t.host h).chain = none
        ∧ (t.host h).presentedTag = none ∧ (t.host h).presentedNotice = false ∧ (t.host h).overflow = false
        ∧ (t.host h).overflowSeen = false ∧ (t.host h).discardedRunning = 0
        ∧ (t.host h).sq = [] ∧ (t.host h).cq = [] ∧ (t.host h).nq = []
        ∧ (t.host h).port.slot = .empty ∧ (t.host h).port.memory = none ∧ (t.host h).port.discarded = false
        ∧ (t.host h).port.captured = none)
    ∧ t.laneA.mode = (if p.imgen then .load else .idle) ∧ t.laneB.mode = .idle
    ∧ (∀ x, (t.lane x).closing = false ∧ (t.lane x).speed = .k100 ∧ (t.lane x).alertEnabled = true
        ∧ (t.lane x).masked = false ∧ (t.lane x).run = none ∧ (t.lane x).recoveryNumber = 0 ∧ (t.lane x).restart = none
        ∧ (t.lane x).sweep = none ∧ (t.lane x).lastGranted = none ∧ (t.lane x).grantOwed = false)
    ∧ t.laneA.alertLow = p.laneA.alertLow ∧ t.laneB.alertLow = p.laneB.alertLow
    ∧ (∀ i (hi : i < 256), t.trace.ring[i] = none) ∧ t.trace.mode = .continuous ∧ t.trace.state = .off
    ∧ t.trace.trigger = .anyFault ∧ t.trace.postCount = 0 ∧ t.trace.hosts = 0b1111 ∧ t.trace.lanes = 0b11
    ∧ t.trace.faultsOnly = false ∧ t.trace.write = 0 ∧ t.trace.wraps = 0 ∧ t.trace.holdsFault = false
    ∧ t.trace.trigIndex = none ∧ t.trace.postLeft = 0 ∧ t.trace.seq = 0 ∧ t.trace.claimant = none
    ∧ t.pending = s.pending

/-! ## Host ports -/

/-- A frame that the port hears and executes, other than a LANE_RESTART, is answered at that event: the slot is READY with the frame's
exchange number, and the repeat memory takes the frame unless the answer is NOT_READY (R182, R183, R189). No other port is
touched (R178). -/
def Obligations.ExecutedFramesAreAnswered : Prop :=
  ∀ (s : State) (h : HostId) (f : Frame) (o : LaneObs) (lasted : Nat), s.hears h lasted = true → s.executes h f = true →
    f.code ≠ Cmd.laneRestart.code →
    ∃ t status payload, exec (.commandFrame ⟨h, lasted⟩ f o) s = .next t
      ∧ (t.host h).port.slot = .ready { status := status, exch := f.exch, payload := payload, discarded := false }
      ∧ (t.host h).port.memory = (if status = .notReady then none else some (f.exch, Frame.check f))
      ∧ (t.host h).port.sdo = List.replicate (f.payload.length + 5) 0
      ∧ ∀ g, g ≠ h → (t.host g).port = (s.host g).port

/-- A malformed frame stores FRAME_ERROR and makes the repeat memory absent, unless the slot is PENDING: then it is discarded
and the marker is set, as any frame but a well-formed DETACH is (R180, R182, R184). A frame that repeats the executed one changes nothing
(R183). SDOn sends 0x00 on every byte of each (R179). -/
def Obligations.MalformedDiscardedAndRepeatedFrames : Prop :=
  (∀ (s : State) (h : HostId) (bytes : List Byte) (lasted : Nat), s.hears h lasted = true →
      (judgeFrame bytes = none → (s.host h).port.slot ≠ .pending →
        exec (.malformedFrame ⟨h, lasted⟩ bytes) s = .next (s.updPort h fun q =>
          { slot := .ready { status := .frameError, exch := (bytes[1]?).getD 0, payload := [], discarded := false }
            memory := none, discarded := q.discarded, captured := q.captured, sdo := List.replicate (bytes.length + 1) 0
            listensFrom := q.listensFrom }))
      ∧ ((∀ f, judgeFrame bytes = some f → f.code ≠ Cmd.detach.code) → (s.host h).port.slot = .pending →
        exec (.discardedFrame ⟨h, lasted⟩ bytes) s = .next (s.updPort h fun q =>
          { q with discarded := true, sdo := List.replicate (bytes.length + 1) 0 }))
      ∧ (judgeFrame bytes = none → (s.host h).port.slot = .pending →
        exec (.malformedFrame ⟨h, lasted⟩ bytes) s = exec (.discardedFrame ⟨h, lasted⟩ bytes) s))
  ∧ (∀ (s : State) (h : HostId) (f : Frame) (o : LaneObs) (r : Response) (lasted : Nat), s.hears h lasted = true → f.wf = true →
      (s.host h).port.slot = .ready r → (s.host h).port.memory = some (f.exch, Frame.check f) →
      exec (.repeatFrame ⟨h, lasted⟩ f) s = .next (s.updPort h fun q => { q with sdo := List.replicate (f.payload.length + 5) 0 })
        ∧ exec (.commandFrame ⟨h, lasted⟩ f o) s = exec (.repeatFrame ⟨h, lasted⟩ f) s)

/-- A response read captures the slot at the end of its marker byte, delivers that capture from the second byte on and 0x00 after it,
and changes nothing else. The capture outlives what the slot becomes during the read: no recovery attempt, and so no end of a pending
restart, reaches it, whether it answers the restart or not. A release of chip select with no capture delivers nothing (R179, R181, R191,
R204; the byte sent with the marker is the model's reading, log 9, and a row for each of the two moments is its choice, log 10). -/
def Obligations.ResponseReadsDeliverTheSlot : Prop :=
  (∀ (s : State) (h : HostId) (lasted : Nat), s.hears h lasted = true →
    ((s.host h).port.slot = .empty →
        exec (.responseRead ⟨h, lasted⟩ .marker) s = .next (s.updPort h fun q =>
          { q with captured := some [0x00, 0x00, 0x00, 0x00, 0x2B], sdo := [0x00] }))
    ∧ ((s.host h).port.slot = .pending →
        exec (.responseRead ⟨h, lasted⟩ .marker) s = .next (s.updPort h fun q =>
          { q with captured := some [if q.discarded then 0x81 else 0x01, 0x00, 0x00, 0x00, 0x2B], sdo := [0x00] }))
    ∧ (∀ r, (s.host h).port.slot = .ready r →
        exec (.responseRead ⟨h, lasted⟩ .marker) s = .next (s.updPort h fun q =>
          { q with
            captured := some ([if r.discarded then 0x82 else 0x02, r.status.code, r.exch, byteOf r.payload.length] ++
              r.payload ++ [crc8 ([r.status.code, r.exch, byteOf r.payload.length] ++ r.payload)])
            sdo := [0x00] }))
    ∧ (∀ bytes n, (s.host h).port.captured = some bytes →
        ∃ rest, exec (.responseRead ⟨h, lasted⟩ (.release n)) s = .next (s.updPort h fun q =>
            { q with captured := none, sdo := 0x00 :: rest })
          ∧ rest.length = n ∧ ∀ i, i < n → rest[i]? = some ((bytes[i]?).getD 0x00))
    ∧ (∀ n, (s.host h).port.captured = none → exec (.responseRead ⟨h, lasted⟩ (.release n)) s = .next s))
  ∧ ∀ (s : State) (x : LaneId) (o : RecoveryObs), ∃ t, exec (.recoveryAttempt x o) s = .next t
      ∧ ∀ h, (t.host h).port.captured = (s.host h).port.captured

/-- A transfer that begins with neither marker, or carries no complete byte, changes no state; SDOn sends 0x00 on every byte
(R179). A HELD host's port takes nothing, and neither does a port a transfer that was begun before the last device reset or the last
rise of the host's reset line: every such row leaves the state as it is (R186; how a row tells when its transfer began is log 10). SDOn is
high impedance while chip select is released, the host is HELD or a device reset is asserted; it is driven in a transfer the port takes
part in (R179, R186, R193), and high impedance in one begun before the rise (log 9). -/
def Obligations.IgnoredTransfersAndHeldPorts : Prop :=
  (∀ (s : State) (h : HostId) (bytes : List Byte) (lasted : Nat), s.hears h lasted = true →
    (∀ b, bytes.head? = some b → b ≠ 0x3C ∧ b ≠ 0xC3) →
    exec (.ignoredTransfer ⟨h, lasted⟩ bytes) s = .next (s.updPort h fun q => { q with sdo := List.replicate bytes.length 0 }))
  ∧ (∀ (s : State) (h : HostId) (c : Instr), Instr.port c = some h → (s.host h).attached = false → exec c s = .next s)
  ∧ (∀ (s : State) (h : HostId) (lasted : Nat), s.elapsed < (s.host h).port.listensFrom + lasted →
    ∀ (f : Frame) (o : LaneObs) (bytes : List Byte) (part : ReadPart),
      ∀ c ∈ [Instr.commandFrame ⟨h, lasted⟩ f o, .malformedFrame ⟨h, lasted⟩ bytes, .repeatFrame ⟨h, lasted⟩ f,
        .discardedFrame ⟨h, lasted⟩ bytes, .responseRead ⟨h, lasted⟩ part, .ignoredTransfer ⟨h, lasted⟩ bytes, .unknownCommand ⟨h, lasted⟩ f],
        exec c s = .next s)
  ∧ ∀ (s : State) (h : HostId) (lasted : Nat) (w : SpiBits),
      ((w.selected = false ∨ (s.host h).attached = false ∨ s.resetAsserted = true
          ∨ s.elapsed < (s.host h).port.listensFrom + lasted) → s.sdoLevel h lasted w = .highZ)
      ∧ (w.selected = true → (s.host h).attached = true → s.resetAsserted = false →
          (s.host h).port.listensFrom + lasted ≤ s.elapsed → ∃ high, s.sdoLevel h lasted w = .driven high
            ∧ ((s.host h).port.captured = none → high = false)
            ∧ ∀ bytes b, (s.host h).port.captured = some bytes → 8 ≤ w.falls → bytes[w.falls / 8 - 1]? = some b →
                high = b.getLsbD (7 - w.falls % 8))

/-- The checks of the Command Unit in order: an unknown code, the image load, the named right, and a payload on a command
without fields are answered with their status, and nothing else changes (R187, R188). -/
def Obligations.CommandUnitRefusals : Prop :=
  ∀ (s : State) (h : HostId) (f : Frame) (o : LaneObs) (lasted : Nat), s.hears h lasted = true → s.executes h f = true →
    (Cmd.ofCode f.code = none →
      exec (.unknownCommand ⟨h, lasted⟩ f) s = .next (s.updPort h fun q => q.answered f ⟨.unknownCommand, []⟩)
        ∧ exec (.commandFrame ⟨h, lasted⟩ f o) s = exec (.unknownCommand ⟨h, lasted⟩ f) s)
    ∧ ∀ c, Cmd.ofCode f.code = some c →
      (s.loader.state = .loading → c ≠ .deviceInfo →
        exec (.commandFrame ⟨h, lasted⟩ f o) s = .next (s.updPort h fun q => q.answered f ⟨.notReady, []⟩))
      ∧ ((s.loader.state ≠ .loading ∨ c = .deviceInfo) →
          ((c ∈ [Cmd.leaseRevoke, .tableWrite, .targetControl, .laneConfig, .laneRestart, .hostRights]
              ∧ (s.host h).rights.admin = false)
            ∨ (c = .lease ∧ (s.host h).rights.lease = false)
            ∨ (c ∈ [Cmd.traceClaim, .traceControl, .traceRead] ∧ (s.host h).rights.trace = false)) →
        exec (.commandFrame ⟨h, lasted⟩ f o) s = .next (s.updPort h fun q => q.answered f ⟨.noRight, []⟩))
      ∧ ((s.loader.state ≠ .loading ∨ c = .deviceInfo) →
          c ∈ [Cmd.resume, .fetchCompletion, .fetchNotice, .ackNotice, .detach, .traceRelease, .deviceInfo] →
          f.payload ≠ [] →
        exec (.commandFrame ⟨h, lasted⟩ f o) s = .next (s.updPort h fun q => q.answered f ⟨.badField, []⟩))

/-- The judgement of a transfer and the layout of a frame agree: every well-formed frame is read back from its bytes, and only
its bytes are well formed (R180, R204). -/
def Obligations.FrameBytesRoundTrip : Prop :=
  (∀ f : Frame, f.wf = true → judgeFrame (Frame.wire f) = some f)
    ∧ ∀ (bytes : List Byte) (f : Frame), judgeFrame bytes = some f → f.wf = true ∧ bytes = Frame.wire f

/-- The SUBMIT payload and the descriptor agree: every descriptor in range is read back from its bytes, and every payload that
the Submission Queue does not refuse BAD_FIELD is the bytes of a descriptor in range (R25, R26, R206, R207). -/
def Obligations.DescriptorBytesRoundTrip : Prop :=
  (∀ d : Descriptor, d.inRange = true → parseDescriptor (RawDescriptor.toBytes d.raw) = some d)
    ∧ ∀ (p : List Byte) (d : Descriptor), parseDescriptor p = some d → d.inRange = true ∧ p = RawDescriptor.toBytes d.raw

/-- The eleven configurable fields as TABLE_READ sends them are the fields as TABLE_WRITE and the image carry them: what is read
can be written back, and only values in range are taken (R13, R198, R206, R207, R209). -/
def Obligations.SettingsBytesRoundTrip : Prop :=
  (∀ c : Settings, c.inRange = true → (RawSettings.ofBytes c.toBytes).bind RawSettings.check = some c)
    ∧ ∀ (p : List Byte) (c : Settings), (RawSettings.ofBytes p).bind RawSettings.check = some c →
        c.inRange = true ∧ p = c.toBytes

/-! ## Descriptors, credits and Submission Queues -/

/-- A SUBMIT that passes every check of R32 is accepted: one QUEUED entry joins the tail of the queue, a credit is taken, the
chain-assembly record follows the chain mark, and DONE carries the credits left (R27, R33, R34, R35). -/
def Obligations.SubmitAccepted : Prop :=
  ∀ (s : State) (h : HostId) (x : Byte) (raw : RawDescriptor) (d : Descriptor),
    s.accepts h .submit x (RawDescriptor.toBytes raw) = true →
    parseDescriptor (RawDescriptor.toBytes raw) = some d →
    (s.entry d.target).state ≠ .undefined →
    hostIn (s.entry d.target).cfg.access h = true → laneIn (s.host h).rights.lanes (s.entry d.target).cfg.lane = true →
    (s.lane (s.entry d.target).cfg.lane).mode ≠ .faulted →
    (s.entry d.target).state ≠ .offline →
    ((s.entry d.target).state = .quarantined → d.kind = .probe) →
    (s.host h).tagOpen d.tag = false →
    (d.mark = .solo ∨ d.mark = .first → (s.host h).chain = none) →
    (d.mark = .middle ∨ d.mark = .last →
      ∃ ch, (s.host h).chain = some ch ∧ ch.lane = (s.entry d.target).cfg.lane ∧ ch.count < 8) →
    (d.requireLease = true → (s.entry d.target).lease.state.heldBy h = true) →
    (d.noWait = true → (s.entry d.target).lease.state.heldByOther h = false) →
    (s.host h).credits ≠ 0 →
    exec (.submit h x raw) s = .next
      ((s.updHost h fun c =>
        { c with
          sq := c.sq ++ [{ desc := d, bypass := 0, state := .queued
                           deadline := if d.waitLimit = 0 then none else some (expiryTick s.elapsed d.waitLimit)
                           element := match d.mark with
                             | .solo => none
                             | .first => some 1
                             | .middle | .last => some ((c.chain.map (·.count)).getD 0 + 1) }]
          credits := c.credits - 1
          chain := match d.mark with
            | .solo => none
            | .first => some { count := 1, lane := (s.entry d.target).cfg.lane, deadline := expiryTick s.elapsed c.window }
            | .middle => c.chain.map fun ch => { ch with count := ch.count + 1 }
            | .last => none }).answers h .submit x (RawDescriptor.toBytes raw)
        ⟨.done, [byteOf ((s.host h).credits - 1)]⟩)

/-- The checks of SUBMIT in the order of R32: the first that fails gives the status, the response carries the free credits, and
nothing else changes (R31, R32). -/
def Obligations.SubmitRefusedInOrder : Prop :=
  ∀ (s : State) (h : HostId) (x : Byte) (raw : RawDescriptor),
    s.accepts h .submit x (RawDescriptor.toBytes raw) = true →
    let refused (st : Status) : Prop := exec (.submit h x raw) s = .next
      (s.answers h .submit x (RawDescriptor.toBytes raw) ⟨st, [byteOf (s.host h).credits]⟩)
    (parseDescriptor (RawDescriptor.toBytes raw) = none → refused .badField)
    ∧ ∀ d, parseDescriptor (RawDescriptor.toBytes raw) = some d →
      let e := s.entry d.target
      let c := s.host h
      let goesOn : Prop := d.mark = .middle ∨ d.mark = .last
      let c2 : Prop := e.state = .undefined
      let c3 : Prop := hostIn e.cfg.access h = false ∨ laneIn c.rights.lanes e.cfg.lane = false
      let c4 : Prop := (s.lane e.cfg.lane).mode = .faulted
      let c5 : Prop := e.state = .offline
      let c6 : Prop := e.state = .quarantined ∧ d.kind ≠ .probe
      let c7 : Prop := (∃ w ∈ c.sq, w.desc.tag = d.tag) ∨ ∃ r ∈ c.cq, r.tag = d.tag
      let c8 : Prop := goesOn ∧ c.chain = none ∨ ¬goesOn ∧ c.chain ≠ none
      let c9 : Prop := goesOn ∧ ∃ ch, c.chain = some ch ∧ ch.lane ≠ e.cfg.lane
      let c10 : Prop := goesOn ∧ ∃ ch, c.chain = some ch ∧ 8 ≤ ch.count
      let c11 : Prop := d.requireLease = true ∧ e.lease.state.heldBy h = false
      let c12 : Prop := d.noWait = true ∧ e.lease.state.heldByOther h = true
      let c13 : Prop := c.credits = 0
      (c2 → refused .badEntry)
      ∧ (¬c2 → c3 → refused .noRight)
      ∧ (¬c2 → ¬c3 → c4 → refused .laneDown)
      ∧ (¬c2 → ¬c3 → ¬c4 → c5 → refused .targetOffline)
      ∧ (¬c2 → ¬c3 → ¬c4 → ¬c5 → c6 → refused .targetQuarantined)
      ∧ (¬c2 → ¬c3 → ¬c4 → ¬c5 → ¬c6 → c7 → refused .tagInUse)
      ∧ (¬c2 → ¬c3 → ¬c4 → ¬c5 → ¬c6 → ¬c7 → c8 → refused .chainOrder)
      ∧ (¬c2 → ¬c3 → ¬c4 → ¬c5 → ¬c6 → ¬c7 → ¬c8 → c9 → refused .laneMismatch)
      ∧ (¬c2 → ¬c3 → ¬c4 → ¬c5 → ¬c6 → ¬c7 → ¬c8 → ¬c9 → c10 → refused .chainLong)
      ∧ (¬c2 → ¬c3 → ¬c4 → ¬c5 → ¬c6 → ¬c7 → ¬c8 → ¬c9 → ¬c10 → c11 → refused .notHolder)
      ∧ (¬c2 → ¬c3 → ¬c4 → ¬c5 → ¬c6 → ¬c7 → ¬c8 → ¬c9 → ¬c10 → ¬c11 → c12 → refused .leased)
      ∧ (¬c2 → ¬c3 → ¬c4 → ¬c5 → ¬c6 → ¬c7 → ¬c8 → ¬c9 → ¬c10 → ¬c11 → ¬c12 → c13 → refused .noCredit)

/-- Work that ends without a run leaves its queue whole, and its records join the Completion Queue together in acceptance order,
with no attempts, no bytes and the causing event's timestamp; the credits stay taken (R10, R36, R44). Work that is not hit, or is not
QUEUED as a whole, stays in its place. The operation is the one that every such rule uses. -/
def Obligations.EndedWorkMovesWhole : Prop :=
  ∀ (c : HostCtx) (hit : List SubEntry → Bool) (st : SubEntry → CStatus) (stamp : Stamp),
    (∀ (pre g post : List SubEntry),
      c.sq = pre ++ g ++ post → wholeWork g = true → startsAfresh post = true → (∀ e ∈ g, e.state = .queued) →
      hit g = true → (∀ k ∈ groups pre ++ groups post, hit k = false) →
      (c.endWork hit st stamp).sq = pre ++ post
        ∧ (c.endWork hit st stamp).chain = (if isOpen g then none else c.chain)
        ∧ (c.endWork hit st stamp).cq.map (fun r => { r with pausedMark := false })
            = c.cq.map (fun r => { r with pausedMark := false }) ++ g.map fun e =>
              { tag := e.desc.tag, status := st e, target := e.desc.target, kind := e.desc.kind, mark := e.desc.mark, attempts := 0
                written := 0, readData := [], finish := stamp, pausedMark := false })
    ∧ (c.endWork hit st stamp).sq = ((groups c.sq).filter fun g => !(g.all fun e => decide (e.state = .queued)) || !hit g).flatten
    ∧ (groups c.sq).flatten = c.sq
    ∧ (c.endWork hit st stamp).credits = c.credits
    ∧ (c.endWork hit st stamp).nq = c.nq

/-- The fault statuses; when records are appended together to a host with stop-on-fault set that is not paused, the first
fault-status record carries the paused marker and the host becomes paused; otherwise the batch is appended as it is; and the end of a
discarded run appends nothing and pauses nobody (R46). -/
def Obligations.FaultStatusPausesHost : Prop :=
  (∀ st : CStatus, st.isFault = true ↔ st = .addrNack ∨ st = .dataNack ∨ st = .stretchTimeout ∨ st = .arbLost ∨ st = .laneFaulted
    ∨ st = .chainBroken)
  ∧ (∀ (c : HostCtx) (x : LaneId) (r : Run) (now : Stamp), r.discarded = true →
    (c.endRun x r now).cq = c.cq ∧ (c.endRun x r now).paused = c.paused)
  ∧ ∀ (c : HostCtx) (recs : List Completion),
    ((c.stopOnFault = false ∨ c.paused = true ∨ ∀ r ∈ recs, r.status.isFault = false) →
      c.appendRecords recs = { c with cq := c.cq ++ recs })
    ∧ ∀ (pre : List Completion) (r : Completion) (post : List Completion), recs = pre ++ r :: post →
        c.stopOnFault = true → c.paused = false → (∀ q ∈ pre, q.status.isFault = false) → r.status.isFault = true →
        c.appendRecords recs = { c with cq := c.cq ++ pre ++ { r with pausedMark := true } :: post, paused := true }

/-- CANCEL of a QUEUED tag ends its SOLO entry, or its whole chain, with CANCELLED; a RUNNING tag is refused TOO_LATE and a tag
that no entry carries UNKNOWN_TAG (R41). -/
def Obligations.CancelEndsQueuedWork : Prop :=
  ∀ (s : State) (h : HostId) (x tag : Byte), s.accepts h .cancel x [tag] = true →
    (∀ (pre g post : List SubEntry), (s.host h).sq = pre ++ g ++ post → wholeWork g = true → startsAfresh post = true →
      (∀ e ∈ g, e.state = .queued) → (∃ e ∈ g, e.desc.tag = tag) → (∀ e ∈ pre ++ post, e.desc.tag ≠ tag) →
      exec (.cancel h x tag) s = .next
        ((s.updHost h fun c =>
          { c with
            sq := pre ++ post, chain := if isOpen g then none else c.chain
            cq := c.cq ++ g.map fun e => recordWithoutRun e .cancelled s.stamp }).answers h .cancel x [tag] ⟨.done, []⟩))
    ∧ ((∃ e ∈ (s.host h).sq, e.desc.tag = tag) → (∀ e ∈ (s.host h).sq, e.desc.tag = tag → e.state ≠ .queued) →
      exec (.cancel h x tag) s = .next (s.answers h .cancel x [tag] ⟨.tooLate, []⟩))
    ∧ ((∀ e ∈ (s.host h).sq, e.desc.tag ≠ tag) →
      exec (.cancel h x tag) s = .next (s.answers h .cancel x [tag] ⟨.unknownTag, []⟩))

/-- When the wait deadline of a QUEUED entry is reached, a SOLO entry ends EXPIRED, and a chain ends as a whole: EXPIRED for the
elements whose deadline is reached, CHAIN_BROKEN for the others (R38, R39). When the window deadline of an open chain is reached the
chain is abandoned: every element ends CHAIN_ABANDONED and the chain-assembly record is emptied (R35, R36). That either row may come
after its tick, and stamps the records with when it comes, is log 6. -/
def Obligations.DeadlinesEndQueuedWork : Prop :=
  (∀ (s : State) (h : HostId) (tag : Byte) (pre g post : List SubEntry) (e : SubEntry) (tick : Nat),
      s.resetAsserted = false → (s.host h).sq = pre ++ g ++ post → wholeWork g = true → startsAfresh post = true →
      (∀ e ∈ g, e.state = .queued) → e ∈ g → e.desc.tag = tag → e.deadline = some tick → tick * 1000 ≤ s.elapsed →
      (∀ e ∈ pre ++ post, e.desc.tag ≠ tag) →
      exec (.waitDeadline h tag) s = .next (s.updHost h fun c =>
        HostCtx.appendRecords { c with sq := pre ++ post, chain := if isOpen g then none else c.chain }
          (g.map fun e => recordWithoutRun e
            (if ∃ k, e.deadline = some k ∧ k * 1000 ≤ s.elapsed then .expired else .chainBroken) s.stamp)))
  ∧ (∀ (s : State) (h : HostId) (ch : OpenChain) (pre g : List SubEntry),
      s.resetAsserted = false → (s.host h).chain = some ch → ch.deadline * 1000 ≤ s.elapsed →
      (s.host h).sq = pre ++ g → wholeWork g = true → isOpen g = true → (∀ e ∈ g, e.state = .queued) →
      noOpenChain pre = true →
      exec (.chainWindowExpiry h) s = .next (s.updHost h fun c =>
        { c with chain := none, sq := pre, cq := c.cq ++ g.map fun e => recordWithoutRun e .chainAbandoned s.stamp }))

/-- RESUME clears the paused flag alone (R48); HOST_CONFIG stores the caller's four settings alone and answers them (R171);
LANE_CONFIG stores the speed and the alert input setting of the lane it names in every lane state, and enabling the input sets the latch
CLEAR (R112, R120); and a host's attention line follows its enables and its two queues (R149). -/
def Obligations.SettingsAreStored : Prop :=
  (∀ (s : State) (h : HostId), s.attn h = true ↔ s.resetAsserted = false ∧ (s.host h).attached = true
    ∧ ((s.host h).complEnable = true ∧ (s.host h).cq ≠ [] ∨ (s.host h).noticeEnable = true ∧ (s.host h).nq ≠ []))
  ∧ (∀ (s : State) (h : HostId) (x : Byte),
      (s.accepts h .resume x [] = true →
        exec (.resume h x) s = .next ((s.updHost h fun c => { c with paused := false }).answers h .resume x [] ⟨.done, []⟩))
      ∧ ∀ (ce ne sof : Bool) (window : Byte),
        s.accepts h .hostConfig x [boolByte ce, boolByte ne, boolByte sof, window] = true →
        (window ≠ 0 → exec (.hostConfig h x (boolByte ce) (boolByte ne) (boolByte sof) window) s = .next
          ((s.updHost h fun c =>
            { c with complEnable := ce, noticeEnable := ne, stopOnFault := sof, window := window.toNat }).answers h .hostConfig x
              [boolByte ce, boolByte ne, boolByte sof, window] ⟨.done, [boolByte ce, boolByte ne, boolByte sof, window]⟩))
        ∧ (window = 0 → exec (.hostConfig h x (boolByte ce) (boolByte ne) (boolByte sof) window) s = .next
            (s.answers h .hostConfig x [boolByte ce, boolByte ne, boolByte sof, window] ⟨.badField, []⟩)))
  ∧ (∀ (s : State) (h : HostId) (x : Byte) (y : LaneId) (v : Speed) (enabled : Bool),
      let p := [laneByte y, speedByte v, boolByte enabled]
      s.accepts h .laneConfig x p = true →
      exec (.laneConfig h x (laneByte y) (speedByte v) (boolByte enabled)) s = .next
        ((s.updLane y fun l =>
          { l with speed := v, alertEnabled := enabled, masked := if enabled then false else l.masked }).answers h .laneConfig x p
            ⟨.done, [laneByte y, speedByte v, boolByte enabled]⟩))

/-! ## Completion Queue, Notice Queue, attention -/

/-- FETCH_COMPLETION presents the head record, and RETIRE of the presented tag removes it and returns its credit; otherwise they
are answered EMPTY, NOT_PRESENTED or TAG_MISMATCH and change nothing (R136, R137). -/
def Obligations.CompletionsArePresentedAndRetired : Prop :=
  ∀ (s : State) (h : HostId) (x tag : Byte),
    (s.accepts h .fetchCompletion x [] = true →
      ((s.host h).cq = [] →
        exec (.fetchCompletion h x) s = .next (s.answers h .fetchCompletion x [] ⟨.empty, []⟩))
      ∧ ∀ r rs, (s.host h).cq = r :: rs →
        exec (.fetchCompletion h x) s = .next ((s.updHost h fun c => { c with presentedTag := some r.tag }).answers h
          .fetchCompletion x [] ⟨.done, byteOf (rs.length + 1) :: r.toBytes⟩))
    ∧ (s.accepts h .retire x [tag] = true →
      ((s.host h).presentedTag = none →
        exec (.retire h x tag) s = .next (s.answers h .retire x [tag] ⟨.notPresented, []⟩))
      ∧ ∀ r rs shown, (s.host h).cq = r :: rs → (s.host h).presentedTag = some shown →
        (shown ≠ tag → exec (.retire h x tag) s = .next (s.answers h .retire x [tag] ⟨.tagMismatch, []⟩))
        ∧ (shown = tag → exec (.retire h x tag) s = .next
            ((s.updHost h fun c => { c with cq := rs, credits := c.credits + 1, presentedTag := none }).answers h .retire x [tag]
              ⟨.done, [byteOf ((s.host h).credits + 1), byteOf rs.length]⟩)))

/-- FETCH_NOTICE presents the head record and copies the overflow flag into overflow-seen; ACK_NOTICE removes the presented
record and clears both flags when overflow-seen is set (R145, R146). -/
def Obligations.NoticesArePresentedAndAcknowledged : Prop :=
  ∀ (s : State) (h : HostId) (x : Byte),
    (s.accepts h .fetchNotice x [] = true →
      ((s.host h).nq = [] →
        exec (.fetchNotice h x) s = .next (s.answers h .fetchNotice x [] ⟨.empty, [boolByte (s.host h).overflow]⟩))
      ∧ ∀ n ns, (s.host h).nq = n :: ns →
        exec (.fetchNotice h x) s = .next
          ((s.updHost h fun c => { c with presentedNotice := true, overflowSeen := c.overflow }).answers h .fetchNotice x []
            ⟨.done, [boolByte (s.host h).overflow, byteOf (ns.length + 1)] ++ n.toBytes⟩))
    ∧ (s.accepts h .ackNotice x [] = true →
      ((s.host h).presentedNotice = false →
        exec (.ackNotice h x) s = .next (s.answers h .ackNotice x [] ⟨.notPresented, []⟩))
      ∧ ∀ n ns, (s.host h).nq = n :: ns → (s.host h).presentedNotice = true →
        ((s.host h).overflowSeen = true → exec (.ackNotice h x) s = .next
          ((s.updHost h fun c =>
            { c with nq := ns, presentedNotice := false, overflow := false, overflowSeen := false }).answers h .ackNotice x []
              ⟨.done, [0, byteOf ns.length]⟩))
        ∧ ((s.host h).overflowSeen = false → exec (.ackNotice h x) s = .next
          ((s.updHost h fun c => { c with nq := ns, presentedNotice := false }).answers h .ackNotice x []
            ⟨.done, [boolByte (s.host h).overflow, byteOf ns.length]⟩)))

/-- What a Notice Queue does with a notice, in the order of R142: a HELD host discards it; an ALERT joins the unpresented ALERT
record for its subject; a queue with room appends it; a full queue sets the overflow flag and clears overflow-seen. -/
def Obligations.NoticeDelivery : Prop :=
  ∀ (c : HostCtx) (k : NoticeKind) (subj : Subject) (d : Byte) (now : Stamp),
    let shown := if c.presentedNotice then c.nq.take 1 else []
    let rest := if c.presentedNotice then c.nq.drop 1 else c.nq
    let joins (n : Notice) : Prop := k = .alert ∧ n.kind = .alert ∧ n.subject = subj
    (c.attached = false → c.takeNotice k subj d now = c)
    ∧ (c.attached = true → ∀ pre n post, rest = pre ++ n :: post → joins n → (∀ m ∈ pre, ¬joins m) →
        c.takeNotice k subj d now = { c with nq := shown ++ pre ++
          { n with detail := n.detail ||| d, count := if n.count < 255 then n.count + 1 else n.count } :: post })
    ∧ (c.attached = true → (∀ m ∈ rest, ¬joins m) → c.nq.length < 12 →
        c.takeNotice k subj d now = { c with nq := c.nq ++
          [{ kind := k, subject := subj, detail := d, count := 1, stamp := now }] })
    ∧ (c.attached = true → (∀ m ∈ rest, ¬joins m) → 12 ≤ c.nq.length →
        c.takeNotice k subj d now = { c with overflow := true, overflowSeen := false })

/-! ## Leases -/

/-- The cases of R53 in order, for a LEASE that passes the checks of R52; one that fails a check is refused with the status of the first
(R52). The first part says when a touching run of a host other than h is in flight (R51). -/
def Obligations.LeaseIsDecidedByCases : Prop :=
  (∀ (s : State) (t : TargetId) (h : HostId), s.touchedByOther t h = true ↔
    ∃ y r, (s.lane y).run = some r ∧ r.host ≠ h ∧ ∃ e ∈ (s.host r.host).sq, e.state = .running y ∧ e.desc.target = t)
  ∧ (∀ (s : State) (h : HostId) (x index : Byte) (duration : BitVec 16) (option : Byte),
    let p := [index] ++ be16 duration ++ [option]
    let refused (st : Status) : Prop := exec (.lease h x index duration option) s = .next (s.answers h .lease x p ⟨st, []⟩)
    s.accepts h .lease x p = true →
    ((48 ≤ index.toNat ∨ duration.toNat = 0 ∨ 60000 < duration.toNat ∨ 1 < option.toNat) → refused .badField)
    ∧ ∀ t : TargetId, index = byteOf t.val → 1 ≤ duration.toNat → duration.toNat ≤ 60000 → option.toNat ≤ 1 →
        ((s.entry t).state = .undefined → refused .badEntry)
        ∧ ((s.entry t).state ≠ .undefined → hostIn (s.entry t).cfg.access h = false → refused .noRight)
        ∧ (hostIn (s.entry t).cfg.access h = true → (s.entry t).state = .offline → refused .targetOffline))
  ∧ ∀ (s : State) (h : HostId) (x : Byte) (t : TargetId) (duration : BitVec 16) (noWait : Bool),
    let p := [byteOf t.val] ++ be16 duration ++ [boolByte noWait]
    let l := (s.entry t).lease
    let run := exec (.lease h x (byteOf t.val) duration (boolByte noWait)) s
    let granted : Lease := { state := .held h, expiry := expiryTick s.elapsed duration.toNat, waiters := l.waiters }
    let refused (st : Status) : Prop := run = .next (s.answers h .lease x p ⟨st, []⟩)
    let done (st : Status) (l' : Lease) : Prop :=
      let s' := s.updLease t fun _ => l'
      run = .next (s'.answers h .lease x p ⟨st, s'.leaseSummary t⟩)
    s.accepts h .lease x p = true → 1 ≤ duration.toNat → duration.toNat ≤ 60000 →
    (s.entry t).state ≠ .undefined → hostIn (s.entry t).cfg.access h = true → (s.entry t).state ≠ .offline →
    let holds : Prop := l.state = .held h
    let ending : Prop := ∃ r, l.state = .ending h r
    let waits : Prop := ∃ w ∈ l.waiters, w.host = h
    let free : Prop := l.state = .free ∧ l.waiters = [] ∧ s.touchedByOther t h = false
    (holds → done .done granted)
    ∧ (¬holds → ending → refused .leaseEnding)
    ∧ (¬holds → ¬ending → waits → refused .alreadyWaiting)
    ∧ (¬holds → ¬ending → ¬waits → free → done .done granted)
    ∧ (¬holds → ¬ending → ¬waits → ¬free → noWait = true → refused .leased)
    ∧ (¬holds → ¬ending → ¬waits → ¬free → noWait = false → 3 ≤ l.waiters.length → refused .leased)
    ∧ (¬holds → ¬ending → ¬waits → ¬free → noWait = false → l.waiters.length < 3 →
        done .pending { l with waiters := l.waiters ++ [{ host := h, duration := duration.toNat }] })

/-- What ends a HELD lease: RELEASE by its holder, LEASE_REVOKE, and LEASE_EXPIRY at its tick or later (that the row may come later, and
counts the next grant from when it comes, is log 6). While the holder's run touches the target (R51) the lease goes ENDING with the
reason and nothing else happens. Otherwise it finishes: the holder's QUEUED work that carries REQUIRE_LEASE for the target ends, whole
chains with it (R58), the holder takes LEASE_ENDED with the reason unless it released the lease (R59), and the head waiter is granted and
takes LEASE_GRANTED unless another host's run touches the target (R54, R55, R57). A command is answered DONE with the lease summary after
it (R60, R61). Nothing else changes. -/
def Obligations.HeldLeaseEnds : Prop :=
  (∀ (s : State) (t : TargetId) (h : HostId), s.touchedBy t h = true ↔
    ∃ y r, (s.lane y).run = some r ∧ r.host = h ∧ ∃ e ∈ (s.host h).sq, e.state = .running y ∧ e.desc.target = t)
  ∧ ∀ (s : State) (g h : HostId) (x : Byte) (t : TargetId) (c : Instr) (r : EndReason) (detail : Byte) (cmd : Option Cmd),
    let l := (s.entry t).lease
    l.state = .held h →
    (c = .release g x (byteOf t.val) ∧ g = h ∧ r = .released ∧ s.accepts g .release x [byteOf t.val] = true ∧ cmd = some .release
      ∨ c = .leaseRevoke g x (byteOf t.val) ∧ r = .revoked ∧ detail = 2 ∧ s.accepts g .leaseRevoke x [byteOf t.val] = true
          ∧ (s.entry t).state ≠ .undefined ∧ cmd = some .leaseRevoke
      ∨ c = .leaseExpiry t ∧ r = .expired ∧ detail = 1 ∧ s.resetAsserted = false ∧ l.expiry * 1000 ≤ s.elapsed ∧ cmd = none) →
    let flagged (e : SubEntry) : Bool := decide (e.desc.target = t ∧ e.desc.requireLease = true)
    let searched (k : HostId) : HostCtx :=
      if k = h then (s.host k).endWork (fun w => w.any flagged) (fun e => if flagged e then .leaseLost else .chainBroken) s.stamp
      else s.host k
    let told (k : HostId) : HostCtx :=
      if k = h ∧ r ≠ .released then (searched k).takeNotice .leaseEnded (.target t) detail s.stamp else searched k
    ∃ u, exec c s = .next u
      ∧ (s.touchedBy t h = true →
          (u.entry t).lease = { state := .ending h r, expiry := l.expiry, waiters := l.waiters }
          ∧ ∀ k, { u.host k with port := (s.host k).port } = s.host k)
      ∧ (s.touchedBy t h = false → (l.waiters = [] ∨ ∃ w ws, l.waiters = w :: ws ∧ s.touchedByOther t w.host = true) →
          (u.entry t).lease = { state := .free, expiry := l.expiry, waiters := l.waiters }
          ∧ ∀ k, { u.host k with port := (s.host k).port } = told k)
      ∧ (s.touchedBy t h = false → ∀ w ws, l.waiters = w :: ws → s.touchedByOther t w.host = false →
          (u.entry t).lease = { state := .held w.host, expiry := expiryTick s.elapsed w.duration, waiters := ws }
          ∧ ∀ k, { u.host k with port := (s.host k).port } =
              if k = w.host then (told k).takeNotice .leaseGranted (.target t) 0 s.stamp else told k)
      ∧ (∀ d, cmd = some d → (u.host g).port =
          (s.host g).port.answered (commandFrameOf d x [byteOf t.val]) ⟨.done, u.leaseSummary t⟩)
      ∧ (∀ k, (k ≠ g ∨ cmd = none) → (u.host k).port = (s.host k).port)
      ∧ (u.entry t).state = (s.entry t).state ∧ (u.entry t).cfg = (s.entry t).cfg ∧ (u.entry t).faults = (s.entry t).faults
      ∧ (∀ v, v ≠ t → u.entry v = s.entry v)
      ∧ u.laneA = s.laneA ∧ u.laneB = s.laneB ∧ u.trace = s.trace ∧ u.loader = s.loader ∧ u.elapsed = s.elapsed

/-- RELEASE by a host that does not hold the lease in state HELD: the holder of an ENDING lease is answered DONE and nothing
changes; a waiter withdraws, and when the head waiter of a FREE lease does so the next waiter is granted unless another host's run
touches the target; any other host is refused NOT_HOLDER. LEASE_REVOKE of a lease that is not HELD changes nothing. An index outside 0 to
47 is refused BAD_FIELD by both, and LEASE_REVOKE of an UNDEFINED entry BAD_ENTRY (R54, R55, R60, R61). -/
def Obligations.ReleaseAndRevokeOtherwise : Prop :=
  (∀ (s : State) (h : HostId) (x index : Byte), 48 ≤ index.toNat →
    (s.accepts h .release x [index] = true →
      exec (.release h x index) s = .next (s.answers h .release x [index] ⟨.badField, []⟩))
    ∧ (s.accepts h .leaseRevoke x [index] = true →
      exec (.leaseRevoke h x index) s = .next (s.answers h .leaseRevoke x [index] ⟨.badField, []⟩)))
  ∧ ∀ (s : State) (h : HostId) (x : Byte) (t : TargetId),
    let l := (s.entry t).lease
    let run := exec (.release h x (byteOf t.val)) s
    let done (s' : State) : Prop := run = .next (s'.answers h .release x [byteOf t.val] ⟨.done, s'.leaseSummary t⟩)
    (s.accepts h .release x [byteOf t.val] = true →
      (∀ r, l.state = .ending h r → done s)
      ∧ (l.state.holder ≠ some h → (∀ w ∈ l.waiters, w.host ≠ h) →
        run = .next (s.answers h .release x [byteOf t.val] ⟨.notHolder, []⟩))
      ∧ (l.state.holder ≠ some h → ∀ pre w post, l.waiters = pre ++ w :: post → w.host = h → (∀ v ∈ pre ++ post, v.host ≠ h) →
        let gone := s.updLease t fun l => { l with waiters := pre ++ post }
        ((pre ≠ [] ∨ l.state ≠ .free ∨ post = []) → done gone)
        ∧ (pre = [] → l.state = .free → ∀ v vs, post = v :: vs →
          (s.touchedByOther t v.host = true → done gone)
          ∧ (s.touchedByOther t v.host = false → done
              ((s.updLease t fun _ => { state := .held v.host, expiry := expiryTick s.elapsed v.duration, waiters := vs }).updHost
                v.host fun c => c.takeNotice .leaseGranted (.target t) 0 s.stamp)))))
    ∧ (s.accepts h .leaseRevoke x [byteOf t.val] = true → (s.entry t).state ≠ .undefined →
      (∀ g, l.state ≠ .held g) →
        exec (.leaseRevoke h x (byteOf t.val)) s = .next
          (s.answers h .leaseRevoke x [byteOf t.val] ⟨.done, s.leaseSummary t⟩))
    ∧ (s.accepts h .leaseRevoke x [byteOf t.val] = true → (s.entry t).state = .undefined →
        exec (.leaseRevoke h x (byteOf t.val)) s = .next (s.answers h .leaseRevoke x [byteOf t.val] ⟨.badEntry, []⟩))

/-! ## The Target Table -/

/-- The commands that report and change nothing: TABLE_READ, LANE_STATUS, HOST_STATUS, TRACE_READ and DEVICE_INFO answer DONE with the
bytes R207 and R208 give, in the codes of R204 and R205 (R12, R113, R165, R172, R190). A time left is rounded as the free value of log 7
says; bytes whose subject is absent and that have no stated value are the free values of log 8; the line levels are the row's own (log
18). In the trace summary 0xFF for an absent trigger index and 0 for ANY_FAULT's value, and in LANE_STATUS a closing bit that stays 0
while a sweep closes, are the model's readings (log 17 and 24); the bits that R207 does not name in the phase, levels, straps and markers
bytes are sent as 0, which is the model's choice (log 30). TABLE_READ of an index outside 0 to 47 is refused BAD_FIELD (R12). The last part
names the codes. -/
def Obligations.ReportsChangeNothing : Prop :=
  (∀ (s : State) (h : HostId) (x index : Byte), 48 ≤ index.toNat → s.accepts h .tableRead x [index] = true →
    exec (.tableRead h x index) s = .next (s.answers h .tableRead x [index] ⟨.badField, []⟩))
  ∧ (∀ (s : State) (h : HostId) (x : Byte),
    (∀ t : TargetId, s.accepts h .tableRead x [byteOf t.val] = true →
      let e := s.entry t
      let left : Nat := if e.lease.state = .free then 0 else msLeft (e.lease.expiry * 1000 - s.elapsed)
      let waits : List Byte := e.lease.waiters.map fun w => byteOf w.host.val
      exec (.tableRead h x (byteOf t.val)) s = .next (s.answers h .tableRead x [byteOf t.val] ⟨.done,
        [byteOf t.val, entryStateByte e.state, byteOf e.faults, laneByte e.cfg.lane, e.cfg.address.setWidth 8,
          e.cfg.access.setWidth 8, e.cfg.subscribers.setWidth 8, byteOf e.cfg.retryBudget, boolByte e.cfg.retryOnNack,
          byteOf e.cfg.threshold, byteOf e.cfg.stretch, boolByte e.cfg.sweepMember, e.cfg.alertReg, boolByte e.cfg.alertClear,
          leaseStateByte e.lease.state, (e.lease.state.holder.map fun g => byteOf g.val).getD 0xFF]
        ++ be16 (BitVec.ofNat 16 left)
        ++ [byteOf e.lease.waiters.length, waits.getD 0 0xFF, waits.getD 1 0xFF, waits.getD 2 0xFF]⟩)
      ∧ s.leaseSummary t = [leaseStateByte e.lease.state, (e.lease.state.holder.map fun g => byteOf g.val).getD 0xFF]
        ++ be16 (BitVec.ofNat 16 left)
        ++ [byteOf e.lease.waiters.length, waits.getD 0 0xFF, waits.getD 1 0xFF, waits.getD 2 0xFF])
    ∧ (∀ (y : LaneId) (o : LaneObs), s.accepts h .laneStatus x [laneByte y] = true →
      let l := s.lane y
      let first : Option SubEntry := l.run.bind fun r => ((s.host r.host).runningOn y).head?
      exec (.laneStatus h x (laneByte y) o) s = .next (s.answers h .laneStatus x [laneByte y] ⟨.done,
        [laneByte y, laneModeByte l.mode,
          (if l.mode = .running ∧ l.closing = true then 1 else 0) ||| (if l.mode = .recovery ∧ l.restart.isSome then 2 else 0),
          speedByte l.speed, boolByte l.alertEnabled, boolByte l.masked,
          (if l.alertLow then 0 else 1) ||| (if o.clockHigh then 2 else 0) ||| (if o.dataHigh then 4 else 0),
          boolByte l.run.isSome, (l.run.map fun r => byteOf r.host.val).getD 0xFF, (first.map fun e => e.desc.tag).getD 0,
          (l.run.map fun r => byteOf r.attempt).getD Config.noRunAttempt, (l.recovery.map fun r => byteOf r.attempts).getD 0,
          (l.lastGranted.map fun g => byteOf g.val).getD 0xFF, boolByte l.grantOwed]⟩))
    ∧ (∀ g : HostId, s.accepts h .hostStatus x [byteOf g.val] = true →
      let c := s.host g
      let r := c.rights
      (g ≠ h → (s.host h).rights.admin = false →
        exec (.hostStatus h x (byteOf g.val)) s = .next (s.answers h .hostStatus x [byteOf g.val] ⟨.noRight, []⟩))
      ∧ ((g = h ∨ (s.host h).rights.admin = true) →
        exec (.hostStatus h x (byteOf g.val)) s = .next (s.answers h .hostStatus x [byteOf g.val] ⟨.done,
          [byteOf g.val, boolByte c.attached,
            (if r.admin then 1 else 0) ||| (if r.lease then 2 else 0) ||| (if r.trace then 4 else 0), byteOf r.cap,
            r.lanes.setWidth 8, byteOf c.credits, byteOf (c.sq.filter fun e => decide (e.state = .queued)).length,
            byteOf ((c.sq.filter fun e => decide (e.state ≠ .queued)).length - c.discardedRunning), byteOf c.discardedRunning,
            byteOf c.cq.length, byteOf c.nq.length, boolByte c.complEnable, boolByte c.noticeEnable, boolByte c.stopOnFault,
            byteOf c.window, boolByte c.paused]
          ++ (match c.chain with
              | none => [0, Config.noChainCount, Config.noChainLane, Config.noChainMsLeft]
              | some ch =>
                let left := msLeft (ch.deadline * 1000 - s.elapsed)
                [1, byteOf ch.count, laneByte ch.lane, if left ≤ 255 then byteOf left else Config.windowOver])
          ++ [boolByte c.presentedTag.isSome, c.presentedTag.getD 0, boolByte c.presentedNotice, boolByte c.overflow,
            boolByte c.overflowSeen, if s.attn g then 0 else 1, if s.trace.claimant = some g then 1 else 0]⟩)))
    ∧ (∀ i : Fin 256, s.accepts h .traceRead x (be16 (BitVec.ofNat 16 i.val)) = true →
      let t := s.trace
      exec (.traceRead h x (BitVec.ofNat 16 i.val)) s = .next
          (s.answers h .traceRead x (be16 (BitVec.ofNat 16 i.val)) ⟨.done, [0, byteOf i.val]
            ++ (match t.ring[i] with
              | none => [0, 0, 0, 0, 0xFF, 0, 0xFF] ++ List.replicate 16 0
              | some r => be16 r.seq ++ [if r.tag.isSome then 3 else 1, runTypeByte r.runType,
                  (r.host.map fun g => byteOf g.val).getD 0xFF, r.tag.getD 0, (r.target.map fun v => byteOf v.val).getD 0xFF,
                  laneByte r.lane, kindByte r.kind, markByte r.mark, r.status.code, byteOf r.attempts, byteOf r.bytesOut,
                  byteOf r.bytesIn] ++ be32 r.start ++ be32 r.stop ++ [0])
            ++ t.summary⟩)
        ∧ t.summary = [traceModeByte t.mode, traceStateByte t.state]
            ++ (match t.trigger with
              | .anyFault => [0, 0]
              | .status st => [1, st.code]
              | .target v => [2, byteOf v.val]
              | .host g => [3, byteOf g.val])
            ++ [t.postCount, t.hosts.setWidth 8, t.lanes.setWidth 8, boolByte t.faultsOnly, t.write, byteOf t.wraps,
              boolByte t.holdsFault, boolByte t.trigIndex.isSome, t.trigIndex.getD 0xFF, byteOf t.postLeft]
            ++ be16 t.seq ++ [(t.claimant.map fun g => byteOf g.val).getD 0xFF])
    ∧ (s.accepts h .deviceInfo x [] = true →
      exec (.deviceInfo h x) s = .next (s.answers h .deviceInfo x [] ⟨.done,
        [0x04, 0x16, 0x01, byteOf h.val, loadStateByte s.loader.state,
          if s.loader.state = .loadFailed then loadFailureByte s.loader.reason else 0,
          byteOf s.straps.adm.val ||| (if s.straps.imgen then 4 else 0) ||| (byteOf s.straps.imga.val <<< 3)]
        ++ be32 (BitVec.ofNat 32 s.elapsed)⟩)))
  ∧ [EntryState.undefined, .online, .quarantined, .offline].map entryStateByte = [0, 1, 2, 3]
  ∧ ∀ (g : HostId) (r : EndReason), [LeaseState.free, .held g, .ending g r].map leaseStateByte = [0, 1, 2]
  ∧ [LaneMode.idle, .foreign, .running, .sweep, .recovery, .faulted, .load].map laneModeByte = [0, 1, 2, 3, 4, 5, 6]
  ∧ [RunType.hostRun, .sweep, .recovery, .image].map runTypeByte = [0, 1, 2, 3]
  ∧ [Kind.write, .read, .writeRead, .probe].map kindByte = [0, 1, 2, 3]
  ∧ [ChainMark.solo, .first, .middle, .last].map markByte = [0, 1, 2, 3]
  ∧ [CStatus.ok, .addrNack, .dataNack, .stretchTimeout, .arbLost, .laneFaulted, .chainBroken, .cancelled, .expired, .leaseLost,
      .targetQuarantined, .targetOffline, .chainAbandoned].map CStatus.code
    = [0x00, 0x01, 0x02, 0x03, 0x04, 0x05, 0x06, 0x10, 0x11, 0x12, 0x13, 0x14, 0x15]
  ∧ [TraceMode.continuous, .stopAfterTrigger, .startAtTrigger].map traceModeByte = [0, 1, 2]
  ∧ [TraceState.off, .armed, .running, .post, .stopped].map traceStateByte = [0, 1, 2, 3, 4]
  ∧ [LoadState.loading, .loaded, .loadFailed, .noImage].map loadStateByte = [0, 1, 2, 3]
  ∧ [LoadFailure.noDevice, .badMagic, .badVersion, .badCount, .badEntry, .duplicateAddress, .badCheck, .stretchTimeout].map
      (fun r => loadFailureByte (some r)) = [1, 2, 3, 4, 5, 6, 7, 8]
  ∧ laneByte .A = 0 ∧ laneByte .B = 1 ∧ speedByte .k100 = 0 ∧ speedByte .k400 = 1 ∧ boolByte false = 0 ∧ boolByte true = 1
  ∧ ∀ us, msLeft us = us / 1000 + (if us % 1000 ≠ 0 ∧ Config.roundsUp us = true then 1 else 0)

/-- An accepted TABLE_WRITE stores every configurable field, sets the state and fault count by the intent, keeps the lease
record, and tells TABLE_CHANGED once to every host in the union of the old and the new subscriber set (R16, R18). A disruptive one is
refused ENTRY_IN_USE while work, QUEUED or RUNNING, names the entry, its lease is HELD or ENDING, or a host waits for it (R14), and one
that would give two defined entries one place is refused DUPLICATE_ADDRESS (R15). Before these, an index outside 0 to 47 or a field that
`RawSettings.check` finds out of its range is refused BAD_FIELD (R2, R13). -/
def Obligations.TableWriteStoresTheEntry : Prop :=
  (∀ (s : State) (h : HostId) (x index : Byte) (raw : RawSettings) (undefine : Bool),
    let p := [index, boolByte undefine] ++ RawSettings.toBytes raw
    s.accepts h .tableWrite x p = true → (48 ≤ index.toNat ∨ RawSettings.check raw = none) →
    exec (if undefine then .tableWriteUndefine h x index raw else .tableWriteDefine h x index raw) s = .next
      (s.answers h .tableWrite x p ⟨.badField, []⟩))
  ∧ ∀ (s : State) (h : HostId) (x : Byte) (t : TargetId) (c : Settings) (undefine : Bool),
    let raw : RawSettings := ⟨laneByte c.lane, c.address.setWidth 8, c.access.setWidth 8, c.subscribers.setWidth 8,
      byteOf c.retryBudget, boolByte c.retryOnNack, byteOf c.threshold, byteOf c.stretch, boolByte c.sweepMember, c.alertReg,
      boolByte c.alertClear⟩
    let p := [byteOf t.val, boolByte undefine] ++ RawSettings.toBytes raw
    let e := s.entry t
    let run := exec (if undefine then .tableWriteUndefine h x (byteOf t.val) raw else .tableWriteDefine h x (byteOf t.val) raw) s
    let disruptive : Prop := e.state ≠ .undefined ∧ (undefine = true ∨ c.lane ≠ e.cfg.lane ∨ c.address ≠ e.cfg.address)
    let inUse : Prop := (∃ k, ∃ w ∈ (s.host k).sq, w.desc.target = t) ∨ e.lease.state ≠ .free ∨ e.lease.waiters ≠ []
    let duplicate : Prop := undefine = false ∧ ∃ u, u ≠ t ∧ (s.entry u).state ≠ .undefined
      ∧ (s.entry u).cfg.lane = c.lane ∧ (s.entry u).cfg.address = c.address
    let e' : TableEntry :=
      { e with
        cfg := c
        state := if undefine then .undefined else if e.state = .undefined then .online else e.state
        faults := if undefine || decide (e.state = .undefined) then 0 else min e.faults c.threshold }
    s.accepts h .tableWrite x p = true → c.inRange = true →
    (disruptive → inUse → run = .next (s.answers h .tableWrite x p ⟨.entryInUse, []⟩))
    ∧ (¬(disruptive ∧ inUse) → duplicate → run = .next (s.answers h .tableWrite x p ⟨.duplicateAddress, []⟩))
    ∧ (¬(disruptive ∧ inUse) → ¬duplicate →
        run = .next (((s.updEntry t fun _ => e').notifyAll
          (fun g => hostIn e.cfg.subscribers g || hostIn c.subscribers g) .tableChanged (.target t) 0).answers h .tableWrite x p
            ⟨.done, [entryStateByte e'.state, byteOf e'.faults]⟩))

/-- TARGET_CONTROL on a defined entry (R19 to R22). ONLINE sets the fault count to 0 and tells RESTORED from QUARANTINED and
TABLE_CHANGED from OFFLINE; QUARANTINE keeps the count, tells QUARANTINED and ends the work of R9, and changes nothing when the entry is
QUARANTINED; OFFLINE ends all queued work to the entry, removes its waiters with LEASE_ENDED, ends its lease and tells TABLE_CHANGED (R22,
R63; that the waiters leave before the finish is log 16), and changes nothing when the entry is OFFLINE. Each is answered DONE with the state
and the fault count. An index outside 0 to 47 or an action that is none of the three is refused BAD_FIELD, and an UNDEFINED entry
BAD_ENTRY (R19). The queues have the form that QueueLawIsKept keeps. -/
def Obligations.TargetControlSetsTheState : Prop :=
  (∀ (s : State) (h : HostId) (x index action : Byte), s.accepts h .targetControl x [index, action] = true →
    let refused (c : Instr) (st : Status) : Prop := exec c s = .next (s.answers h .targetControl x [index, action] ⟨st, []⟩)
    (∀ o, 2 < action.toNat → refused (.commandFrame ⟨h, 0⟩ (commandFrameOf .targetControl x [index, action]) o) .badField)
    ∧ ∀ c, (action = 0 ∧ c = .targetControlOnline h x index ∨ action = 1 ∧ c = .targetControlOffline h x index
        ∨ action = 2 ∧ c = .targetControlQuarantine h x index) →
      (48 ≤ index.toNat → refused c .badField)
      ∧ ∀ t : TargetId, index = byteOf t.val → (s.entry t).state = .undefined → refused c .badEntry)
  ∧ ∀ (s : State) (h : HostId) (x : Byte) (t : TargetId), (s.entry t).state ≠ .undefined →
    s.queueLaw →
    let e := s.entry t
    let subscribed (k : HostId) : Bool := hostIn e.cfg.subscribers k
    let frame (u : State) (action : Byte) : Prop := (∀ v, v ≠ t → u.entry v = s.entry v) ∧ (u.entry t).cfg = e.cfg
      ∧ u.laneA = s.laneA ∧ u.laneB = s.laneB ∧ u.trace = s.trace ∧ (∀ g, (u.host g).credits = (s.host g).credits)
      ∧ (u.host h).port = (s.host h).port.answered (commandFrameOf .targetControl x [byteOf t.val, action])
          ⟨.done, [entryStateByte (u.entry t).state, byteOf (u.entry t).faults]⟩
      ∧ ∀ g, g ≠ h → (u.host g).port = (s.host g).port
    let hosts (u : State) (f : HostId → HostCtx) : Prop := ∀ k, { u.host k with port := (s.host k).port } = f k
    (s.accepts h .targetControl x [byteOf t.val, 0] = true →
      ∃ u, exec (.targetControlOnline h x (byteOf t.val)) s = .next u ∧ frame u 0
        ∧ (u.entry t).state = .online ∧ (u.entry t).faults = 0 ∧ (u.entry t).lease = e.lease
        ∧ hosts u fun k =>
          if subscribed k ∧ e.state = .quarantined then (s.host k).takeNotice .restored (.target t) 0 s.stamp
          else if subscribed k ∧ e.state = .offline then (s.host k).takeNotice .tableChanged (.target t) 0 s.stamp
          else s.host k)
    ∧ (s.accepts h .targetControl x [byteOf t.val, 2] = true →
      ∃ u, exec (.targetControlQuarantine h x (byteOf t.val)) s = .next u ∧ frame u 2
        ∧ (u.entry t).state = .quarantined ∧ (u.entry t).faults = e.faults ∧ (u.entry t).lease = e.lease
        ∧ (e.state ≠ .quarantined → ∀ g, ∀ w ∈ (u.host g).sq, w.state = .queued → w.desc.target = t → w.desc.kind = .probe)
        ∧ hosts u fun k => if e.state = .quarantined then s.host k else s.hostAfterQuarantine t k)
    ∧ (s.accepts h .targetControl x [byteOf t.val, 1] = true →
      ∃ u, exec (.targetControlOffline h x (byteOf t.val)) s = .next u ∧ frame u 1
        ∧ (u.entry t).state = .offline ∧ (u.entry t).faults = e.faults
        ∧ (e.state = .offline → u.entry t = e ∧ hosts u fun k => s.host k)
        ∧ (e.state ≠ .offline →
          (u.entry t).lease.waiters = [] ∧ (u.entry t).lease.expiry = e.lease.expiry
          ∧ (∀ g, e.lease.state = .held g →
              (u.entry t).lease.state = if s.touchedBy t g then .ending g .offline else .free)
          ∧ ((∀ g, e.lease.state ≠ .held g) → (u.entry t).lease.state = e.lease.state)
          ∧ (∀ g, ∀ w ∈ (u.host g).sq, w.state = .queued → w.desc.target ≠ t)
          ∧ hosts u fun k =>
            let ended := (s.host k).endWork (fun w => w.any fun i => decide (i.desc.target = t))
              (fun i => if i.desc.target = t then .targetOffline else .chainBroken) s.stamp
            let left := e.lease.waiters.foldl (fun c w =>
              if w.host = k then c.takeNotice .leaseEnded (.target t) 3 s.stamp else c) ended
            let freed := if e.lease.state = .held k ∧ s.touchedBy t k = false then
              left.takeNotice .leaseEnded (.target t) 3 s.stamp else left
            if subscribed k then freed.takeNotice .tableChanged (.target t) 0 s.stamp else freed))

/-- Counting a fault: the count rises by 1 unless it equals the threshold in use or that threshold is 0; an ONLINE entry whose
count comes to a nonzero threshold in use is quarantined, with the notice to its subscribers and the ending of its queued work; the stored
count never exceeds the stored threshold (R6, R8, R9). A final status OK clears the count, and of a PROBE element restores a QUARANTINED
entry and tells its subscribers; ADDR_NACK and STRETCH_TIMEOUT count a fault; the other statuses change nothing (R5, R11). -/
def Obligations.FaultsAreCounted : Prop :=
  (∀ (s : State) (t : TargetId) (threshold : Nat),
    let e := s.entry t
    let n := if threshold = 0 ∨ e.faults = threshold then e.faults else e.faults + 1
    let u := s.countFault t threshold
    (u.entry t).faults = min n e.cfg.threshold
      ∧ (u.entry t).state = (if threshold ≠ 0 ∧ n = threshold ∧ e.state = .online then .quarantined else e.state)
      ∧ (u.entry t).cfg = e.cfg ∧ (u.entry t).lease = e.lease
      ∧ (∀ v, v ≠ t → u.entry v = s.entry v)
      ∧ ((threshold = 0 ∨ n ≠ threshold ∨ e.state ≠ .online) → u.hosts = s.hosts)
      ∧ (threshold ≠ 0 → n = threshold → e.state = .online → ∀ h, u.host h = s.hostAfterQuarantine t h))
  ∧ ∀ (s : State) (t : TargetId) (st : CStatus) (probe : Bool) (threshold : Nat),
    let u := s.applyStatus t st probe threshold
    ((st = .addrNack ∨ st = .stretchTimeout) → u = s.countFault t threshold)
    ∧ (st ≠ .ok → st ≠ .addrNack → st ≠ .stretchTimeout → u = s)
    ∧ (st = .ok →
      (u.entry t).faults = 0 ∧ (u.entry t).cfg = (s.entry t).cfg ∧ (u.entry t).lease = (s.entry t).lease
      ∧ (∀ v, v ≠ t → u.entry v = s.entry v)
      ∧ (probe = true → (s.entry t).state = .quarantined → (u.entry t).state = .online
          ∧ ∀ h, u.host h = if hostIn (s.entry t).cfg.subscribers h then
              (s.host h).takeNotice .restored (.target t) 0 s.stamp else s.host h)
      ∧ ((probe = false ∨ (s.entry t).state ≠ .quarantined) → (u.entry t).state = (s.entry t).state ∧ u.hosts = s.hosts))

/-! ## Lanes -/

/-- LANE_RESTART on a FAULTED lane records its caller, makes the slot PENDING and begins a recovery sequence. A first attempt that
leaves both lines high ends the restart with success, as `restartEnded` says; a failed one leaves it in progress, its next attempt
due in 1 ms. On any other lane state it is refused LANE_NOT_FAULTED (R108, R109, R114, R185). That a TRACE_STOPPED notice of the
sequence's trace offer comes before LANE_RESTORED is the model's choice (log 13), and so is that the first attempt takes no time (log 32). -/
def Obligations.LaneRestartRecovers : Prop :=
  ∀ (s : State) (h : HostId) (x : Byte) (y : LaneId) (o : LaneObs), s.accepts h .laneRestart x [laneByte y] = true →
    let called : Restart :=
      { caller := h, exch := x, check := Frame.check (commandFrameOf .laneRestart x [laneByte y]), live := true }
    ((s.lane y).mode ≠ .faulted →
      exec (.laneRestart h x (laneByte y) o) s = .next (s.answers h .laneRestart x [laneByte y] ⟨.laneNotFaulted, []⟩))
    ∧ ((s.lane y).mode = .faulted → RecoveryObs.succeeds o.recovery = false →
      ∃ u, exec (.laneRestart h x (laneByte y) o) s = .next u
        ∧ (u.host h).port.slot = .pending
        ∧ u.lane y = { s.lane y with
            mode := .recovery, closing := false, restart := some called
            recovery := some { attempts := 1, start := s.elapsed, nextTick := expiryTick s.elapsed 1 } }
        ∧ (∀ z, z ≠ y → u.lane z = s.lane z) ∧ u.table = s.table ∧ u.trace = s.trace
        ∧ ∀ g, { u.host g with port := (s.host g).port } = s.host g)
    ∧ ((s.lane y).mode = .faulted → RecoveryObs.succeeds o.recovery = true →
      ∃ u, exec (.laneRestart h x (laneByte y) o) s = .next u ∧ s.restartEnded u y called 1 s.elapsed true)

/-- A later attempt of a restart, at its tick or later (that it may come later is log 6). A failure before the third leaves the restart
in progress with its next attempt due in 1 ms. Success takes the lane to IDLE, sends each ATTACHED host LANE_RESTORED and answers DONE.
The third failure makes the lane FAULTED again without a LANE_FAULTED notice, ends the work accepted for the lane meanwhile and answers
RESTART_FAILED. Both offer the sequence to the trace; that a TRACE_STOPPED notice of this offer comes before LANE_RESTORED, and before the
records of the ended work, is the model's choice (log 13). A caller torn down meanwhile is answered nothing (R43, R108, R109, R114, R115,
R120, R185). -/
def Obligations.RestartEnds : Prop :=
  ∀ (s : State) (y : LaneId) (o : RecoveryObs) (r : Recovery) (k : Restart), s.resetAsserted = false →
    (s.lane y).mode = .recovery → (s.lane y).recovery = some r → (s.lane y).restart = some k → r.nextTick * 1000 ≤ s.elapsed →
    ∃ u, exec (.recoveryAttempt y o) s = .next u
      ∧ (RecoveryObs.succeeds o = false → r.attempts + 1 < 3 → u = s.updLane y fun l =>
          { l with recovery := some { attempts := r.attempts + 1, start := r.start, nextTick := expiryTick s.elapsed 1 } })
      ∧ (RecoveryObs.succeeds o = true → s.restartEnded u y k (r.attempts + 1) r.start true)
      ∧ (RecoveryObs.succeeds o = false → 3 ≤ r.attempts + 1 → s.restartEnded u y k (r.attempts + 1) r.start false)

/-- What the pins of a lane bring about. An IDLE lane on which a line reads low goes FOREIGN, that line timed from then or from an
earlier start that is known; a STOP, or both lines high for 1 ms, takes it to IDLE, or to RUNNING with the next attempt of a run
that waits (R105, R107). A fall of the alert input is kept as the sampled level and a rise too; a rise returns a MASKED latch to CLEAR
unless the lane is FAULTED (R118, R120). The alert is pending while the level is low, the input enabled and the latch CLEAR (R119).
Nothing else changes. -/
def Obligations.PinEventsOnALane : Prop :=
  (∀ l : Lane, l.alertPending = true ↔ l.alertLow = true ∧ l.alertEnabled = true ∧ l.masked = false)
  ∧ ∀ (s : State) (y : LaneId), s.resetAsserted = false →
    ((s.lane y).mode = .idle →
      exec (.foreignLineLow y .clock) s = .next (s.updLane y fun l =>
          { l with mode := .foreign, closing := false, lowSeen := s.elapsed
                   clockLowFrom := some (l.clockLowFrom.getD s.elapsed) })
        ∧ exec (.foreignLineLow y .data) s = .next (s.updLane y fun l =>
          { l with mode := .foreign, closing := false, lowSeen := s.elapsed
                   dataLowFrom := some (l.dataLowFrom.getD s.elapsed) }))
    ∧ ((s.lane y).mode = .foreign →
      let gone : State := s.updLane y fun l =>
        match l.run with
        | none => { l with mode := .idle, closing := false, clockLowFrom := none, dataLowFrom := none }
        | some r =>
          { l with mode := .running, closing := false, clockLowFrom := some s.elapsed, dataLowFrom := some s.elapsed
                   run := some { r with attempt := r.attempt + 1, results := [], stoppedAt := 0 } }
      exec (.foreignStopSeen y) s = .next gone
        ∧ ∀ since, since + 1000 ≤ s.elapsed → (s.lane y).lowSeen ≤ since → exec (.idleLimit y since) s = .next gone)
    ∧ exec (.alertInputFall y) s = .next (s.updLane y fun l => { l with alertLow := true })
    ∧ ((s.lane y).alertLow = true → exec (.alertInputRise y) s = .next (s.updLane y fun l =>
        { l with alertLow := false, masked := if l.mode = .faulted then l.masked else false }))

/-- The stuck limit takes an IDLE or FOREIGN lane, or one in its closing, to RECOVERY with the first attempt at once, and ends a sweep
that was closing; a line that has risen is not acted on (R106). A failed attempt is followed by another 1 ms later. A successful one
offers the sequence to the trace and takes the lane to IDLE, or to RUNNING with the next attempt of a run that waits. That
either row may come after its tick, and counts the next attempt from when it comes, is log 6, and that an attempt takes no time is log 32
(R107 to R109, R111). -/
def Obligations.StuckLinesAreRecovered : Prop :=
  ∀ (s : State) (y : LaneId) (o : RecoveryObs), s.resetAsserted = false → (s.lane y).restart = none →
    let freed (l : Lane) : Lane := match l.run with
      | none => { l with mode := .idle, closing := false, recovery := none, clockLowFrom := none, dataLowFrom := none }
      | some r =>
        { l with mode := .running, closing := false, recovery := none, clockLowFrom := some s.elapsed
                 dataLowFrom := some s.elapsed, run := some { r with attempt := r.attempt + 1, results := [], stoppedAt := 0 } }
    let recovered (u : State) (l : Lane) (attempts start : Nat) : Prop :=
      let rec' := recoveryRecord y true attempts start s.elapsed
      u.lane y = freed l ∧ (∀ z, z ≠ y → u.lane z = s.lane z) ∧ u.table = s.table ∧ u.trace = (s.trace.offer rec').1
        ∧ ∀ h, u.host h = s.hostAfterOffer rec' h (s.host h)
    (∀ (line : Line) (since : Nat),
      ((s.lane y).mode = .idle ∨ (s.lane y).mode = .foreign
        ∨ ((s.lane y).mode = .running ∨ (s.lane y).mode = .sweep) ∧ (s.lane y).closing = true) →
      let swept : Lane := { s.lane y with sweep := none, grantOwed := (s.lane y).grantOwed || (s.lane y).sweep.isSome }
      (expiryTick since 35 * 1000 ≤ s.elapsed → (∃ k, (s.lane y).timedFrom line = some k ∧ k ≤ since) →
        ∃ u, exec (.stuckLimit y line since o) s = .next u
          ∧ (RecoveryObs.succeeds o = false → u = s.updLane y fun _ =>
              { swept with
                mode := .recovery, closing := false
                recovery := some { attempts := 1, start := s.elapsed, nextTick := expiryTick s.elapsed 1 } })
          ∧ (RecoveryObs.succeeds o = true → recovered u swept 1 s.elapsed))
      ∧ ((s.lane y).timedFrom line = none → exec (.stuckLimit y line since o) s = .next s))
    ∧ ∀ r, (s.lane y).mode = .recovery → (s.lane y).recovery = some r → r.nextTick * 1000 ≤ s.elapsed →
      ∃ u, exec (.recoveryAttempt y o) s = .next u
        ∧ (RecoveryObs.succeeds o = false → r.attempts + 1 < 3 → u = s.updLane y fun l =>
            { l with recovery := some { attempts := r.attempts + 1, start := r.start, nextTick := expiryTick s.elapsed 1 } })
        ∧ (RecoveryObs.succeeds o = true → recovered u (s.lane y) (r.attempts + 1) r.start)

/-- The third failed attempt of a sequence that the stuck limit started, at its tick or later (log 6), offers the sequence to the trace
and makes the lane FAULTED (R109, R110). A run that waits ends: the element at which its last attempt stopped has LANE_FAULTED, those
before it keep their results and those after it have CHAIN_BROKEN. Every QUEUED entry whose target lies on the lane leaves its queue,
whole chains with it, with LANE_FAULTED (R43); where a run ends, that search comes after the run's statuses and before its leases (R58).
Last of all each ATTACHED host takes a LANE_FAULTED notice for the lane, which in a full queue sets the overflow flag instead (R142).
Every host is given whole, with a run that ends and without one (the order of several leases is log 14, and the run's trace offers after
them log 28). That the sequence's record is
offered before the run's records, with the earlier sequence number and an earlier TRACE_STOPPED notice, is the model's choice (log 13).
The queues have the form that QueueLawIsKept keeps. -/
def Obligations.ThirdFailureFaultsTheLane : Prop :=
  ∀ (s : State) (y : LaneId) (o : RecoveryObs) (r : Recovery), s.resetAsserted = false → (s.lane y).restart = none →
    (s.lane y).mode = .recovery → (s.lane y).recovery = some r → r.nextTick * 1000 ≤ s.elapsed → 3 ≤ r.attempts + 1 →
    RecoveryObs.succeeds o = false → s.queueLaw →
    let rec' := recoveryRecord y false (r.attempts + 1) r.start s.elapsed
    ∃ u, exec (.recoveryAttempt y o) s = .next u
      ∧ u.lane y = { s.lane y with mode := .faulted, closing := false, recovery := none, run := none }
      ∧ (∀ z, z ≠ y → u.lane z = s.lane z)
      ∧ (∀ v, (u.entry v).cfg = (s.entry v).cfg)
      ∧ (∀ g, ∀ e ∈ (u.host g).sq, e.state = .queued → (s.entry e.desc.target).cfg.lane ≠ y)
      ∧ (∀ g, (s.host g).attached = true →
          (u.host g).nq.getLast? = some { kind := .laneFaulted, subject := .lane y, detail := 0, count := 1, stamp := s.stamp }
            ∨ (u.host g).overflow = true)
      ∧ ((s.lane y).run = none → u.table = s.table ∧ u.trace = (s.trace.offer rec').1
          ∧ ∀ g, u.host g = HostCtx.takeNotice ((s.hostAfterOffer rec' g (s.host g)).endWork
              (fun w => w.any fun e => decide ((s.entry e.desc.target).cfg.lane = y)) (fun _ => .laneFaulted) s.stamp)
              .laneFaulted (.lane y) 0 s.stamp)
      ∧ ∀ (run : Run) (done : List (List Byte)) (k : Nat) (here : ElemResult), (s.lane y).run = some run →
          let es := (s.host run.host).runningOn y
          run.results = attemptResults es done k here → run.stoppedAt = k →
          let results := attemptResults es done k { here with status := .laneFaulted }
          s.runEnded u y run results (s.trace.offer rec').1
            ∧ ∀ g, u.host g = HostCtx.takeNotice (s.hostAfterRun y run results (s.trace.offer rec').1
                (fun c => c.endWork (fun w => w.any fun e => decide ((s.entry e.desc.target).cfg.lane = y)) (fun _ => .laneFaulted) s.stamp)
                g (s.hostAfterOffer rec' g (s.host g))) .laneFaulted (.lane y) 0 s.stamp

/-! ## Dispatch -/

/-- A grant on lane y: on an IDLE lane outside the image load, when the alert is not pending, or a grant is owed and a candidate
exists, the winner's entries become RUNNING on the lane, the other hosts' candidates have their bypass counts raised by 1 up to 8,
and the run begins its first attempt (R77, R78, R82, R83, R93, R119). -/
def Obligations.DispatcherGrantsTheWinner : Prop :=
  ∀ (s : State) (y : LaneId) (h : HostId) (g : List SubEntry), s.resetAsserted = false → (s.lane y).mode = .idle →
    s.loader.state ≠ .loading →
    ((s.lane y).alertLow = false ∨ (s.lane y).alertEnabled = false ∨ (s.lane y).masked = true ∨ (s.lane y).grantOwed = true) →
    s.winner (s.candidates y) = some (h, g) →
    ∃ u, exec (.dispatcherChoice y) s = .next u
      ∧ u.lane y = { s.lane y with
          mode := .running, closing := false, clockLowFrom := some s.elapsed, dataLowFrom := some s.elapsed
          lastGranted := some h, grantOwed := false
          run := some
            { host := h, speed := (s.lane y).speed, attempt := 1, results := [], stoppedAt := 0, start := s.elapsed
              discarded := false
              policies := g.map fun e =>
                { retryBudget := (s.entry e.desc.target).cfg.retryBudget
                  retryOnNack := (s.entry e.desc.target).cfg.retryOnNack
                  stretch := (s.entry e.desc.target).cfg.stretch, threshold := (s.entry e.desc.target).cfg.threshold } } }
      ∧ (u.host h).sq = (s.host h).sq.map (fun e =>
          if e.state = .queued ∧ ∃ i ∈ g, i.desc.tag = e.desc.tag then { e with state := .running y } else e)
      ∧ (∀ k, k ≠ h → ∀ g', s.candidate k y = some g' →
          (u.host k).sq = (s.host k).sq.map (fun e =>
            if e.state = .queued ∧ ∃ i ∈ g', i.desc.tag = e.desc.tag then { e with bypass := min 8 (e.bypass + 1) } else e))
      ∧ (∀ k, k ≠ h → s.candidate k y = none → u.host k = s.host k)
      ∧ (∀ k, { u.host k with sq := (s.host k).sq } = s.host k)
      ∧ (∀ z, z ≠ y → u.lane z = s.lane z) ∧ u.table = s.table ∧ u.trace = s.trace

/-- The candidates of a lane stand in round-robin order after its last-granted host; the arbiter takes the first urgent one, and
without an urgent one the first whose effective class, the item's class under its host's priority cap, is the highest; it takes one
exactly when there is a candidate (R79 to R81). The class of an item is the highest among its elements, and its bypass count the one its
elements have in common (R70), as they have it in a state that keeps the law of QueueLawIsKept. -/
def Obligations.WinnerByUrgencyClassAndOrder : Prop :=
  (∀ g : List SubEntry, (∀ e ∈ g, e.desc.cls ≤ itemClass g) ∧ (g ≠ [] → ∃ e ∈ g, e.desc.cls = itemClass g)
    ∧ ∀ count, g ≠ [] → (∀ e ∈ g, e.bypass = count) → itemBypass g = count)
  ∧ (∀ (s : State) (h : HostId) (y : LaneId) (g : List SubEntry), s.workLaw → s.candidate h y = some g →
      itemBypass g ≤ 8 ∧ ∀ e ∈ g, e.bypass = itemBypass g)
  ∧ ∀ (s : State) (y : LaneId),
    let cs := s.candidates y
    let order : List HostId := match (s.lane y).lastGranted with
      | none => [0, 1, 2, 3]
      | some h => [h + 1, h + 2, h + 3, h]
    let effective (c : HostId × List SubEntry) : Nat := min (itemClass c.2) (s.host c.1).rights.cap
    cs = order.filterMap (fun h => (s.candidate h y).map fun g => (h, g))
    ∧ (s.winner cs = none ↔ cs = [])
    ∧ ∀ c, s.winner cs = some c → ∃ pre post, cs = pre ++ c :: post
      ∧ ((∃ d ∈ cs, itemBypass d.2 = 8) → (∀ d ∈ cs, itemBypass d.2 ≤ 8) → itemBypass c.2 = 8 ∧ ∀ d ∈ pre, itemBypass d.2 < 8)
      ∧ ((∀ d ∈ cs, itemBypass d.2 < 8) →
        (∀ d ∈ cs, effective d ≤ effective c) ∧ ∀ d ∈ pre, effective d < effective c)

/-- A host's candidate is its oldest eligible item. It is eligible: the host is ATTACHED and not paused, the work is whole, closed
and QUEUED, its first element's target lies on the lane, its targets admit it, no other host holds their leases, and no older QUEUED entry
of the host names one of its targets. And in a queue that begins with the start of work, a host with an eligible item has a candidate,
which stands no later in the queue than any eligible item. Under the law of QueueLawIsKept every target of a candidate lies on the lane
(R70 to R76). -/
def Obligations.CandidatesAreEligible : Prop :=
  ∀ (s : State) (h : HostId) (y : LaneId),
    let c := s.host h
    let fit (pre g post : List SubEntry) : Prop :=
      c.sq = pre ++ g ++ post ∧ c.attached = true ∧ c.paused = false ∧ wholeWork g = true ∧ startsAfresh post = true
        ∧ (∀ e, g.getLast? = some e → e.desc.mark = .solo ∨ e.desc.mark = .last) ∧ (∀ e ∈ g, e.state = .queued)
        ∧ (∃ e, g.head? = some e ∧ (s.entry e.desc.target).cfg.lane = y)
        ∧ (∀ e ∈ g, (∀ k, k ≠ h → (s.entry e.desc.target).lease.state ≠ .held k
              ∧ ∀ r, (s.entry e.desc.target).lease.state ≠ .ending k r)
            ∧ ((s.entry e.desc.target).state = .online
                ∨ (s.entry e.desc.target).state = .quarantined ∧ e.desc.kind = .probe))
        ∧ ∀ o ∈ pre, o.state = .queued → ∀ e ∈ g, e.desc.target ≠ o.desc.target
    startsAfresh c.sq = true →
    (∀ g, s.candidate h y = some g → ∃ pre post, fit pre g post
      ∧ ∀ pre' g' post', fit pre' g' post' → pre.length ≤ pre'.length)
    ∧ ((∃ pre g post, fit pre g post) → s.candidate h y ≠ none)
    ∧ (s.workLaw → ∀ g, s.candidate h y = some g → ∀ e ∈ g, (s.entry e.desc.target).cfg.lane = y)

/-- A dispatcher choice with a pending alert, when no grant is owed or no candidate exists, begins a sweep with the lane's speed, its
visit position before index 0 and nothing found: a visit to the lowest ONLINE member of the lane begins; without a member the
sweep ends at once and, the input being low, masks the latch and tells the hosts with ADMIN (R78, R119, R121, R122, R127). -/
def Obligations.PendingAlertBeginsASweep : Prop :=
  ∀ (s : State) (y : LaneId), s.resetAsserted = false → (s.lane y).mode = .idle → s.loader.state ≠ .loading →
    (s.lane y).alertLow = true → (s.lane y).alertEnabled = true → (s.lane y).masked = false →
    ((s.lane y).grantOwed = false ∨ s.candidates y = []) →
    let w : Sweep := { speed := (s.lane y).speed, position := none, found := false, visit := none }
    ∃ u, exec (.dispatcherChoice y) s = .next u
      ∧ s.sweepGoesOn u y w ∧ (∀ h, s.hostAfterVisit u y w h (s.host h) (u.host h))
      ∧ u.table = s.table ∧ u.trace = s.trace ∧ ∀ z, z ≠ y → u.lane z = s.lane z

/-! ## Attempts and the end of a run -/

/-- An attempt that reaches its STOP with every byte acknowledged ends the run OK: every element's record has status OK, all its
bytes written and all its bytes read, and the lane goes IDLE (R94, R101, R102). What the end of a run does to every host, a restore
and a lease that finishes now included, `runDone` says (R5, R8, R9, R11, R55, R57 to R59, R103, R160; the order of several leases is log
14, and that the trace comes last is log 28). -/
def Obligations.SuccessfulAttemptEndsTheRun : Prop :=
  ∀ (s : State) (y : LaneId) (r : Run) (reads : List (List Byte)), s.resetAsserted = false →
    (s.lane y).mode = .running → (s.lane y).run = some r →
    reads.map List.length = ((s.host r.host).runningOn y).map (fun e => e.desc.readLen) →
    ∃ u, exec (.attemptSuccess y reads) s = .next u ∧ (u.lane y).mode = .idle
      ∧ s.runDone u y r (((s.host r.host).runningOn y).zipIdx.map fun (e, k) =>
          { status := .ok, written := e.desc.writeData.length, reads := reads.getD k [] })

/-- A NACK to an address byte ends the attempt ADDR_NACK: a SOLO run whose copied policy allows it begins its next attempt, or waits in
FOREIGN for it when the STOP finds the data line low, and any other run ends; the lane goes IDLE, or FOREIGN when the STOP finds the
data line low. A NACK to a write byte ends the run DATA_NACK (R95, R96, R99). The end of a run is as `runDone` says (log 14, log 28). -/
def Obligations.NacksEndOrRetryTheRun : Prop :=
  ∀ (s : State) (y : LaneId) (r : Run) (k : Nat) (done : List (List Byte)) (e : SubEntry) (dataLow : Bool),
    let es := (s.host r.host).runningOn y
    let retries : Prop := es.length = 1 ∧ e.desc.mark = .solo ∧ (r.policy 0).retryOnNack = true ∧ e.desc.noRetry = false
      ∧ r.attempt < 1 + (r.policy 0).retryBudget
    s.resetAsserted = false → (s.lane y).mode = .running → (s.lane y).run = some r → es[k]? = some e →
    done.map List.length = (es.take k).map (fun e => e.desc.readLen) →
    (∀ second, (second = true → e.desc.kind = .writeRead) →
      let refused : ElemResult :=
        { status := .addrNack, written := if second then e.desc.writeData.length else 0, reads := [] }
      (retries → dataLow = false → exec (.addressNack y k done second dataLow) s = .next (s.updLane y fun l =>
        { l with mode := .running, closing := false, clockLowFrom := some s.elapsed, dataLowFrom := some s.elapsed
                 run := some { r with attempt := r.attempt + 1, results := [], stoppedAt := 0 } }))
      ∧ (retries → dataLow = true → exec (.addressNack y k done second dataLow) s = .next (s.updLane y fun l =>
        { l with mode := .foreign, closing := false, lowSeen := s.elapsed
                 run := some { r with results := attemptResults es done k refused, stoppedAt := k } }))
      ∧ (¬retries → ∃ u, exec (.addressNack y k done second dataLow) s = .next u
          ∧ (u.lane y).mode = (if dataLow then .foreign else .idle)
          ∧ s.runDone u y r (attemptResults es done k refused)))
    ∧ ∀ acked, acked < e.desc.writeData.length → ∃ u, exec (.writeByteNack y k done acked dataLow) s = .next u
        ∧ (u.lane y).mode = (if dataLow then .foreign else .idle)
        ∧ s.runDone u y r (attemptResults es done k { status := .dataNack, written := acked, reads := [] })

/-- A loss of arbitration, at a moment R98 names, takes the lane to FOREIGN: a run with another attempt allowed stays in flight and
waits, and any other run ends with ARB_LOST at the element on the wires and the bytes it had reached (R98 to R100), as `runDone` says (log
14, log 28). On the lane the engine has then sent a beginning of the attempt, up to a look at the lines, and has released both (R98). -/
def Obligations.LostArbitrationWaitsOrEnds : Prop :=
  ∀ (s : State) (y : LaneId) (r : Run) (p : Progress) (e : SubEntry),
    let es := (s.host r.host).runningOn y
    let retries : Prop := (∀ e ∈ es, e.desc.noRetry = false) ∧ r.attempt < 1 + (r.policy 0).retryBudget
    let lost := attemptResults es p.done p.elem { status := .arbLost, written := p.written, reads := p.part }
    s.resetAsserted = false → (s.lane y).mode = .running → (s.lane y).run = some r → es[p.elem]? = some e →
    p.done.map List.length = (es.take p.elem).map (fun e => e.desc.readLen) → progressFits es e p = true →
    (p.part = [] ∨ p.part.length = e.desc.readLen) → (p.written = 0 ∨ e.desc.writeData[p.written]? ≠ some 0x00) →
    ∃ u, exec (.arbitrationLoss y p) s = .next u ∧ (u.lane y).mode = .foreign
      ∧ (retries → u = s.updLane y fun l =>
          { l with mode := .foreign, closing := false, lowSeen := s.elapsed
                   run := some { r with results := lost, stoppedAt := p.elem } })
      ∧ (¬retries → s.runDone u y r lost)
      ∧ ∀ sent ∈ s.lostActs y p, ∃ pre a whole, sent = pre ++ [a, .release .clock, .release .data]
          ∧ (a = .bothHigh ∨ a = .dataHigh) ∧ s.runWires y = some whole ∧ pre ++ [a] <+: lineActs whole

/-- A clock hold beyond the stretch limit in use ends the run STRETCH_TIMEOUT whatever its budget, and the lane stays RUNNING in its
closing phase, the clock's timing going on from the start of the hold; the closing STOP that leaves both lines high takes it to IDLE,
and any other leaves it closing (R92, R97, R107); that a closing STOP may come again after such a one is log 33. The hold lies within the
present transfer. The end of the run is as `runDone` says (log 14, log 28). On the lane the engine has then sent a beginning of the attempt,
up to a clock that does not rise, and has released both lines; the closing STOP waits for the clock, forms a STOP and looks at both lines
(R97). That a hold in the STOP after a NACK is a stretch timeout too is log 35. -/
def Obligations.StretchTimeoutEndsTheRunAndCloses : Prop :=
  ∀ (s : State) (y : LaneId), s.resetAsserted = false → (s.lane y).mode = .running →
    (∀ (r : Run) (p : Progress) (e : SubEntry) (since : Nat),
      let es := (s.host r.host).runningOn y
      (s.lane y).run = some r → es[p.elem]? = some e →
      p.done.map List.length = (es.take p.elem).map (fun e => e.desc.readLen) → progressFits es e p = true →
      since + (r.policy (if p.opening then p.elem - 1 else p.elem)).stretch * 100 < s.elapsed →
      (∀ k, (s.lane y).clockLowFrom = some k → k ≤ since) →
      ∃ u, exec (.stretchTimeout y p since) s = .next u ∧ (u.lane y).mode = .running ∧ (u.lane y).closing = true
        ∧ (u.lane y).clockLowFrom = some since
        ∧ s.runDone u y r (attemptResults es p.done p.elem
            { status := .stretchTimeout, written := p.written, reads := p.part })
        ∧ ∀ sent ∈ s.heldActs y p, ∃ pre whole, sent = pre ++ [.clockHigh, .release .clock, .release .data]
            ∧ s.runWires y = some whole ∧ (pre ++ [.clockHigh] <+: lineActs whole
              ∨ ∃ cut, pre = cut ++ [.answer, .pull .clock, .pull .data, .release .clock] ∧ cut ++ [.answer] <+: lineActs whole))
    ∧ ((s.lane y).closing = true → s.closingActs y = some
        [.clockHigh, .pull .clock, .pull .data, .release .clock, .clockHigh, .release .data, .bothHigh])
    ∧ ((s.lane y).closing = true → exec (.closingStop y true true) s = .next (s.updLane y fun l =>
        { l with mode := .idle, closing := false, clockLowFrom := none, dataLowFrom := none }))
    ∧ ∀ clockHigh dataHigh, (s.lane y).closing = true → (clockHigh && dataHigh) = false →
        ∃ u, exec (.closingStop y clockHigh dataHigh) s = .next u ∧ (u.lane y).mode = .running ∧ (u.lane y).closing = true
          ∧ (clockHigh = false → ∀ k, (s.lane y).clockLowFrom = some k → (u.lane y).clockLowFrom = some k)
          ∧ (dataHigh = false → ∀ k, (s.lane y).dataLowFrom = some k → (u.lane y).dataLowFrom = some k)
          ∧ u.hosts = s.hosts ∧ u.table = s.table ∧ u.trace = s.trace

/-! ## Alerts and sweeps -/

/-- The end of an alert read that returned a byte. With a nonzero byte the found flag is set and each subscriber takes ALERT with the
byte; the transfer is handed over OK, its trace offer after those notices (that order is log 15); and a nonzero byte with alert clear
begins the write-back of the byte, while otherwise the visit ends and the sweep goes on (R7, R122 to R124, R126, R127). -/
def Obligations.AlertReadEndsOk : Prop :=
  ∀ (s : State) (y : LaneId) (w : Sweep) (v : Visit) (b : Byte), s.resetAsserted = false → (s.lane y).mode = .sweep →
    (s.lane y).closing = false → (s.lane y).sweep = some w → w.visit = some v → v.stage = .read →
    let w' : Sweep := { w with found := w.found || decide (b ≠ 0) }
    let told (h : HostId) : HostCtx := s.hostAfterOffer (transferRecord y v .ok 1 1 s.elapsed) h
      (if b ≠ 0 ∧ hostIn (s.entry v.target).cfg.subscribers h = true then
        (s.host h).takeNotice .alert (.target v.target) b s.stamp else s.host h)
    ∃ u, exec (.alertReadEnd y (.ok b)) s = .next u
      ∧ s.handedOver u y v .ok 1 1
      ∧ (b ≠ 0 → v.alertClear = true →
          u.lane y = { s.lane y with
            clockLowFrom := some s.elapsed, dataLowFrom := some s.elapsed
            sweep := some { w' with visit := some { v with stage := .writeBack b, start := s.elapsed } } }
          ∧ ∀ h, u.host h = told h)
      ∧ (b = 0 ∨ v.alertClear = false → s.sweepGoesOn u y w' ∧ ∀ h, s.hostAfterVisit u y w' h (told h) (u.host h))

/-- The end of a write-back that completed: it is handed over OK with two bytes out, the visit ends and the sweep goes on; when no
member is left the lane goes IDLE with grant-owed set, and a sweep that found a source leaves the latch as it was (R122, R125 to
R127). -/
def Obligations.WriteBackEndsOk : Prop :=
  ∀ (s : State) (y : LaneId) (w : Sweep) (v : Visit) (b : Byte), s.resetAsserted = false → (s.lane y).mode = .sweep →
    (s.lane y).closing = false → (s.lane y).sweep = some w → w.visit = some v → v.stage = .writeBack b →
    ∃ u, exec (.writeBackEnd y .ok) s = .next u
      ∧ s.handedOver u y v .ok 2 0 ∧ s.sweepGoesOn u y w
      ∧ ∀ h, s.hostAfterVisit u y w h (s.hostAfterTransfer y v .ok 2 0 h) (u.host h)

/-- A sweep transfer that fails and leaves the lane to the sweep. A NACK whose STOP finds the data line high is handed over ADDR_NACK or
DATA_NACK with the bytes out that were acknowledged, and the sweep goes on. A clock hold beyond the copied stretch limit, within the
transfer, is handed over STRETCH_TIMEOUT, and the lane closes, still in SWEEP; its closing STOP that leaves both lines high lets the
sweep go on, and any other leaves it closing (that one may come again after it is log 33). At the hold the engine has sent a beginning of the
transfer, up to a clock that does not rise, and has released both lines (R97, R111; a hold in the STOP after a NACK: log 35). A counted fault can quarantine the entry, which
the sweep then passes over (R6, R7, R111, R122, R123, R125 to R127). -/
def Obligations.FailedSweepTransfersGoOn : Prop :=
  ∀ (s : State) (y : LaneId) (w : Sweep), s.resetAsserted = false → (s.lane y).mode = .sweep → (s.lane y).sweep = some w →
    (∀ (v : Visit) (c : Instr) (st : CStatus) (out : Nat), (s.lane y).closing = false → w.visit = some v →
      ((∃ second, v.stage = .read ∧ c = .alertReadEnd y (.addrNack second false) ∧ st = .addrNack ∧ out = if second then 1 else 0)
        ∨ v.stage = .read ∧ c = .alertReadEnd y (.dataNack false) ∧ st = .dataNack ∧ out = 0
        ∨ v.stage ≠ .read ∧ c = .writeBackEnd y (.addrNack false) ∧ st = .addrNack ∧ out = 0
        ∨ v.stage ≠ .read ∧ c = .writeBackEnd y (.dataNack out false) ∧ st = .dataNack ∧ out < 2) →
      ∃ u, exec c s = .next u ∧ s.handedOver u y v st out 0 ∧ s.sweepGoesOn u y w
        ∧ ∀ h, s.hostAfterVisit u y w h (s.hostAfterTransfer y v st out 0 h) (u.host h))
    ∧ (∀ (v : Visit) (c : Instr) (out since : Nat), (s.lane y).closing = false → w.visit = some v →
      (v.stage = .read ∧ c = .alertReadEnd y (.stretch out since) ∧ out ≤ 1
        ∨ v.stage ≠ .read ∧ c = .writeBackEnd y (.stretch out since) ∧ out ≤ 2
        ∨ ∃ p : Progress, c = .stretchTimeout y p since ∧ p.elem = 0 ∧ p.opening = false ∧ p.done = [] ∧ p.written = out
            ∧ (if v.stage = .read then out ≤ 1 ∧ p.part.length ≤ out else out ≤ 2 ∧ p.part = [])) →
      since + v.stretch * 100 < s.elapsed → (∀ k, (s.lane y).clockLowFrom = some k → k ≤ since) →
      ∃ u, exec c s = .next u ∧ s.handedOver u y v .stretchTimeout out 0
        ∧ u.lane y = { s.lane y with
            closing := true, clockLowFrom := some since, dataLowFrom := some ((s.lane y).dataLowFrom.getD since) }
        ∧ (∀ h, u.host h = s.hostAfterTransfer y v .stretchTimeout out 0 h)
        ∧ ∀ p, ∀ sent ∈ s.heldActs y p, ∃ pre, sent = pre ++ [.clockHigh, .release .clock, .release .data]
            ∧ (pre ++ [.clockHigh] <+: lineActs v.wires
              ∨ ∃ cut, pre = cut ++ [.answer, .pull .clock, .pull .data, .release .clock] ∧ cut ++ [.answer] <+: lineActs v.wires))
    ∧ ((s.lane y).closing = true → ∃ u, exec (.closingStop y true true) s = .next u ∧ s.sweepGoesOn u y w
        ∧ (∀ h, s.hostAfterVisit u y w h (s.host h) (u.host h)) ∧ u.table = s.table ∧ u.trace = s.trace
        ∧ ∀ z, z ≠ y → u.lane z = s.lane z)
    ∧ ∀ clockHigh dataHigh, (s.lane y).closing = true → (clockHigh && dataHigh) = false →
        ∃ u, exec (.closingStop y clockHigh dataHigh) s = .next u ∧ (u.lane y).mode = .sweep ∧ (u.lane y).closing = true
          ∧ (u.lane y).sweep = some w ∧ u.hosts = s.hosts ∧ u.table = s.table ∧ u.trace = s.trace

/-- A sweep transfer that cannot go on ends the sweep: at a loss of arbitration, or a STOP after a NACK that finds the data line low,
it is handed over with its status and the bytes it had reached, the lane goes FOREIGN, grant-owed is set and the latch keeps its
value (R111, R123, R125, R126, R128). At a loss the engine has sent a beginning of the transfer, up to a look at the lines, and has released
both (R98, R111). -/
def Obligations.SweepAborts : Prop :=
  ∀ (s : State) (y : LaneId) (w : Sweep) (v : Visit) (c : Instr) (st : CStatus) (out inn : Nat), s.resetAsserted = false →
    (s.lane y).mode = .sweep → (s.lane y).closing = false → (s.lane y).sweep = some w → w.visit = some v →
    ((v.stage = .read ∧
        (c = .alertReadEnd y (.arbLost out inn) ∧ st = .arbLost ∧ out ≤ 1 ∧ inn ≤ out
          ∨ (∃ second, c = .alertReadEnd y (.addrNack second true) ∧ st = .addrNack ∧ out = (if second then 1 else 0) ∧ inn = 0)
          ∨ c = .alertReadEnd y (.dataNack true) ∧ st = .dataNack ∧ out = 0 ∧ inn = 0))
      ∨ (v.stage ≠ .read ∧ inn = 0 ∧
        (c = .writeBackEnd y (.arbLost out) ∧ st = .arbLost ∧ out ≤ 2
          ∨ c = .writeBackEnd y (.addrNack true) ∧ st = .addrNack ∧ out = 0
          ∨ c = .writeBackEnd y (.dataNack out true) ∧ st = .dataNack ∧ out < 2))
      ∨ ∃ p : Progress, c = .arbitrationLoss y p ∧ st = .arbLost ∧ p.elem = 0 ∧ p.opening = false ∧ p.done = []
          ∧ p.written = out ∧ p.part.length = inn ∧ (if v.stage = .read then out ≤ 1 ∧ inn ≤ out else out ≤ 2 ∧ inn = 0)) →
    ∃ u, exec c s = .next u ∧ s.handedOver u y v st out inn
      ∧ u.lane y = { s.lane y with mode := .foreign, closing := false, lowSeen := s.elapsed, sweep := none, grantOwed := true }
      ∧ (∀ h, u.host h = s.hostAfterTransfer y v st out inn h)
      ∧ ∀ p, ∀ sent ∈ s.lostActs y p, ∃ pre a, sent = pre ++ [a, .release .clock, .release .data]
          ∧ (a = .bothHigh ∨ a = .dataHigh) ∧ pre ++ [a] <+: lineActs v.wires

/-! ## The trace -/

/-- TRACE_CLAIM and TRACE_RELEASE move the claim alone (R161, R162). TRACE_CONTROL of the claimant: SET stores the settings and
clears, CLEAR empties the ring and starts the mode, OFF stops the trace and keeps the ring; from any other host it is refused
NOT_CLAIMANT (R163, R164). That a SET whose trigger ANY_FAULT carries a value other than 0 is BAD_FIELD, as `RawTraceSet.check` says, is
the model's reading (log 17). -/
def Obligations.TraceCommandsAct : Prop :=
  (∀ (s : State) (h : HostId) (x : Byte),
      let claimed : State := { s with trace := { s.trace with claimant := some h } }
      (∀ option : Byte, option ≠ 0 → option ≠ 1 → s.accepts h .traceClaim x [option] = true →
        exec (.traceClaim h x option) s = .next (s.answers h .traceClaim x [option] ⟨.badField, []⟩))
      ∧ (∀ force : Bool, s.accepts h .traceClaim x [boolByte force] = true →
        (force = true → (s.host h).rights.admin = false →
          exec (.traceClaim h x (boolByte force)) s = .next (s.answers h .traceClaim x [boolByte force] ⟨.noRight, []⟩))
        ∧ ((force = false ∨ (s.host h).rights.admin = true) →
            (s.trace.claimant = none ∨ s.trace.claimant = some h ∨ force = true) →
          exec (.traceClaim h x (boolByte force)) s = .next
            (claimed.answers h .traceClaim x [boolByte force] ⟨.done, claimed.trace.summary⟩))
        ∧ (∀ g, force = false → s.trace.claimant = some g → g ≠ h →
          exec (.traceClaim h x (boolByte force)) s = .next
            (s.answers h .traceClaim x [boolByte force] ⟨.claimed, s.trace.summary⟩)))
      ∧ (s.accepts h .traceRelease x [] = true →
        (s.trace.claimant = some h → exec (.traceRelease h x) s = .next
          (({ s with trace := { s.trace with claimant := none } } : State).answers h .traceRelease x [] ⟨.done, []⟩))
        ∧ (s.trace.claimant ≠ some h → exec (.traceRelease h x) s = .next
          (s.answers h .traceRelease x [] ⟨.notClaimant, []⟩))))
  ∧ (∀ (s : State) (h : HostId) (x : Byte),
      let cleared (t : Trace) : Trace :=
        { t with ring := Vector.replicate 256 none, write := 0, wraps := 0, holdsFault := false, trigIndex := none, postLeft := 0
                 seq := 0, state := if t.mode = .startAtTrigger then .armed else .running }
      (s.accepts h .traceControl x [1] = true →
        (s.trace.claimant = some h →
          exec (.traceControlClear h x) s = .next (({ s with trace := cleared s.trace } : State).answers h .traceControl x [1]
            ⟨.done, (cleared s.trace).summary⟩))
        ∧ (s.trace.claimant ≠ some h →
          exec (.traceControlClear h x) s = .next (s.answers h .traceControl x [1] ⟨.notClaimant, []⟩)))
      ∧ (s.accepts h .traceControl x [2] = true →
        (s.trace.claimant = some h →
          exec (.traceControlOff h x) s = .next (({ s with trace := { s.trace with state := .off } } : State).answers h
            .traceControl x [2] ⟨.done, ({ s.trace with state := .off } : Trace).summary⟩))
        ∧ (s.trace.claimant ≠ some h →
          exec (.traceControlOff h x) s = .next (s.answers h .traceControl x [2] ⟨.notClaimant, []⟩)))
      ∧ ∀ r : RawTraceSet, let p := 0 :: RawTraceSet.toBytes r
        s.accepts h .traceControl x p = true →
        (s.trace.claimant ≠ some h →
          exec (.traceControlSet h x r) s = .next (s.answers h .traceControl x p ⟨.notClaimant, []⟩))
        ∧ (s.trace.claimant = some h → RawTraceSet.check r = none →
          exec (.traceControlSet h x r) s = .next (s.answers h .traceControl x p ⟨.badField, []⟩))
        ∧ ∀ c, s.trace.claimant = some h → RawTraceSet.check r = some c →
          let t := cleared { s.trace with mode := c.mode, trigger := c.trigger, postCount := c.postCount, hosts := c.hosts
                                          lanes := c.lanes, faultsOnly := c.faultsOnly }
          exec (.traceControlSet h x r) s = .next (({ s with trace := t } : State).answers h .traceControl x p
            ⟨.done, t.summary⟩))

/-- An offer to the trace: OFF and STOPPED drop it without a number; otherwise it takes the next sequence number, and a record that
does not pass the filter (its host, its lane, faults only) changes nothing more; a record that passes it in mode CONTINUOUS goes to the
write index, which rises and wraps, and changes nothing else of the ring (R153 to R155, R157). -/
def Obligations.TraceOffersAreNumberedAndStored : Prop :=
  ∀ (t : Trace) (r : TraceRecord),
    (t.passes r = true ↔ (∀ h, r.host = some h → hostIn t.hosts h = true) ∧ laneIn t.lanes r.lane = true
      ∧ (t.faultsOnly = true → r.status.isFault = true))
    ∧ ((t.state = .off ∨ t.state = .stopped) → t.offer r = (t, none))
    ∧ (t.state ≠ .off → t.state ≠ .stopped → (t.offer r).1.seq = t.seq + 1)
    ∧ (t.state ≠ .off → t.state ≠ .stopped → t.passes r = false → t.offer r = ({ t with seq := t.seq + 1 }, none))
    ∧ (t.state = .running → t.mode = .continuous → t.passes r = true →
        (t.offer r).1.ring[t.write.toNat]'(t.write.isLt) = some { r with seq := t.seq }
        ∧ (∀ i (hi : i < 256), i ≠ t.write.toNat → (t.offer r).1.ring[i] = t.ring[i])
        ∧ (t.offer r).1.write.toNat = (t.write.toNat + 1) % 256
        ∧ (t.offer r).1.wraps = (if t.write = 255 ∧ t.wraps < 255 then t.wraps + 1 else t.wraps)
        ∧ (t.offer r).1.holdsFault = (t.holdsFault || r.status.isFault)
        ∧ { (t.offer r).1 with ring := t.ring, write := t.write, wraps := t.wraps, holdsFault := t.holdsFault, seq := t.seq } = t
        ∧ (t.offer r).2 = none)

/-- What a record that passes the filter does in the modes with a trigger. STOP_AFTER_TRIGGER stores every record; the one that meets the
trigger is marked and begins the count of POST, or stops the trace at once when the post count is 0, and the record that brings post
remaining to 0 stops it. START_AT_TRIGGER drops records while ARMED until one meets the trigger, which is stored and marked, and stops at
the record stored at index 255. A stop has its reason as detail, TRIGGER_DONE 1 or FULL 2, and the claimant takes TRACE_STOPPED with it
(R156, R158 to R160). -/
def Obligations.TraceTriggersAndStops : Prop :=
  (∀ (t : Trace) (r : TraceRecord), t.passes r = true →
    let met : Prop := match t.trigger with
      | .anyFault => r.status.isFault = true
      | .status st => r.status = st
      | .target v => r.target = some v
      | .host h => r.host = some h
    let stored : Trace :=
      { t with
        seq := t.seq + 1, ring := t.ring.set t.write.toNat (some { r with seq := t.seq }) t.write.isLt, write := t.write + 1
        wraps := if t.write = 255 ∧ t.wraps < 255 then t.wraps + 1 else t.wraps
        holdsFault := t.holdsFault || r.status.isFault }
    (t.mode = .stopAfterTrigger → t.state = .running →
      (met → t.postCount ≠ 0 →
        t.offer r = ({ stored with state := .post, trigIndex := some t.write, postLeft := t.postCount.toNat }, none))
      ∧ (met → t.postCount = 0 →
        t.offer r = ({ stored with state := .stopped, trigIndex := some t.write, postLeft := 0 }, some 1))
      ∧ (¬met → t.offer r = (stored, none)))
    ∧ (t.state = .post →
      (1 < t.postLeft → t.offer r = ({ stored with postLeft := t.postLeft - 1 }, none))
      ∧ (t.postLeft ≤ 1 → t.offer r = ({ stored with state := .stopped, postLeft := 0 }, some 1)))
    ∧ (t.state = .armed →
      (met → t.offer r = ({ stored with state := .running, trigIndex := some t.write }, none))
      ∧ (¬met → t.offer r = ({ t with seq := t.seq + 1 }, none)))
    ∧ (t.mode = .startAtTrigger → t.state = .running →
      (t.write ≠ 255 → t.offer r = (stored, none))
      ∧ (t.write = 255 → t.offer r = ({ stored with state := .stopped, postLeft := 0 }, some 2))))
  ∧ ∀ (s : State) (r : TraceRecord), let u := s.offer r
    u.trace = (s.trace.offer r).1 ∧ u.table = s.table ∧ u.laneA = s.laneA ∧ u.laneB = s.laneB
      ∧ ∀ h, u.host h = match (s.trace.offer r).2 with
        | some detail => if s.trace.claimant = some h then (s.host h).takeNotice .traceStopped .none detail s.stamp else s.host h
        | none => s.host h

/-! ## Host contexts and teardown -/

/-- HOST_RIGHTS replaces the named host's rights record and changes nothing else; a record that would leave no host with ADMIN is
refused LAST_ADMIN, and a field out of range BAD_FIELD (R170). -/
def Obligations.HostRightsReplace : Prop :=
  (∀ (s : State) (h : HostId) (x host rights cap lanes : Byte), s.accepts h .hostRights x [host, rights, cap, lanes] = true →
    (4 ≤ host.toNat ∨ 8 ≤ rights.toNat ∨ 3 < cap.toNat ∨ 4 ≤ lanes.toNat) →
    exec (.hostRights h x host rights cap lanes) s = .next
      (s.answers h .hostRights x [host, rights, cap, lanes] ⟨.badField, []⟩))
  ∧ ∀ (s : State) (h g : HostId) (x rights cap lanes : Byte) (r : Rights),
    let p := [byteOf g.val, rights, cap, lanes]
    s.accepts h .hostRights x p = true → rights.toNat < 8 → cap.toNat ≤ 3 → lanes.toNat < 4 →
    r = { admin := rights.getLsbD 0, lease := rights.getLsbD 1, trace := rights.getLsbD 2, cap := cap.toNat
          lanes := lanes.setWidth 2 } →
    let last : Prop := r.admin = false ∧ (s.host g).rights.admin = true ∧ ∀ k, k ≠ g → (s.host k).rights.admin = false
    (last → exec (.hostRights h x (byteOf g.val) rights cap lanes) s = .next (s.answers h .hostRights x p ⟨.lastAdmin, []⟩))
    ∧ (¬last → exec (.hostRights h x (byteOf g.val) rights cap lanes) s = .next
        ((s.updHost g fun c => { c with rights := r }).answers h .hostRights x p ⟨.done, [rights, cap, lanes]⟩))

/-- DETACH tears its host down; the host stays ATTACHED and the slot holds DONE with its free credits, also when the slot was
PENDING. The fall of a host's reset line tears the host down and leaves it HELD with an EMPTY slot, no repeat memory and no response
read in progress; the rise makes it ATTACHED, its port taking part in the transfers that begin from then on, and changes nothing else.
At a teardown every other host is as it was, ports, rights, chain and pause included, but that a waiter granted one of the host's leases
takes LEASE_GRANTED; that several leases are met in ascending table index is the model's choice (log 14) (R55, R64, R115, R168, R173 to
R176, R178, R185, R186). -/
def Obligations.TeardownsByDetachAndReset : Prop :=
  (∀ (s : State) (h : HostId) (x : Byte),
    (s.accepts h .detach x [] = true
      ∨ s.listens h = true ∧ s.loader.state ≠ .loading ∧ (s.host h).port.slot = .pending) →
    ∃ u, exec (.detach h x) s = .next u ∧ s.tornDown u h ∧ (u.host h).attached = true
      ∧ (u.host h).port.slot = .ready { status := .done, exch := x, payload := [byteOf (u.host h).credits], discarded := false }
      ∧ (u.host h).port.memory = some (x, Frame.check (commandFrameOf .detach x []))
      ∧ (u.host h).port.discarded = false)
  ∧ ∀ (s : State) (h : HostId), s.resetAsserted = false →
    ((s.host h).attached = true → ∃ u, exec (.hostResetAssert h) s = .next u ∧ s.tornDown u h
      ∧ (u.host h).attached = false ∧ u.attn h = false ∧ (u.host h).port.slot = .empty ∧ (u.host h).port.memory = none
      ∧ (u.host h).port.discarded = false ∧ (u.host h).port.captured = none)
    ∧ ((s.host h).attached = false → exec (.hostResetRelease h) s = .next (s.updHost h fun c =>
        { c with attached := true, port := { c.port with listensFrom := s.elapsed } }))

/-! ## The image load -/

/-- The fields of the image are judged in the order of R198 at the byte that completes each: a field that passes is kept and the
transfer goes on; the first that fails ends the load with its reason, and the table stays as it was (R198, R201, R209, R210). -/
def Obligations.ImageFieldsAreJudged : Prop :=
  ∀ (s : State) (bytes : List Byte), s.resetAsserted = false → s.loader.phase = .transfer →
    let im := s.loader.image
    let run := exec (.imageFieldCheck bytes) s
    let failed (r : LoadFailure) : Prop := ∃ u, run = .next u ∧ u.loader.state = .loadFailed ∧ u.loader.reason = some r
      ∧ u.loader.phase = .none ∧ u.laneA.mode = .idle ∧ u.laneA.speed = s.laneA.speed ∧ u.laneB = s.laneB ∧ u.table = s.table
    let kept (im' : Image) : Prop := run = .next { s with loader := { s.loader with image := im' } }
    let got : Image := { im with received := im.received ++ bytes }
    (im.received.length = 0 → bytes.length = 2 → (bytes = [0xA6, 0x5D] → kept got) ∧ (bytes ≠ [0xA6, 0x5D] → failed .badMagic))
    ∧ (∀ b, bytes = [b] →
        (im.received.length = 2 → (b = 0x01 → kept got) ∧ (b ≠ 0x01 → failed .badVersion))
        ∧ (im.received.length = 3 →
            (b.toNat ≤ 48 → kept { got with count := b.toNat }) ∧ (48 < b.toNat → failed .badCount))
        ∧ (im.received.length = 4 → (b = 0 → kept { got with speedA := .k100 }) ∧ (b = 1 → kept { got with speedA := .k400 })
            ∧ (b ≠ 0 → b ≠ 1 → failed .badEntry))
        ∧ (im.received.length = 5 → (b = 0 → kept { got with speedB := .k100 }) ∧ (b = 1 → kept { got with speedB := .k400 })
            ∧ (b ≠ 0 → b ≠ 1 → failed .badEntry)))
    ∧ (∀ index fields, bytes = index :: fields → fields.length = 11 → 6 ≤ im.received.length → im.entries.length < im.count →
        ((index.toNat ≠ im.entries.length ∨ (RawSettings.ofBytes fields).bind RawSettings.check = none) → failed .badEntry)
        ∧ ∀ c, index.toNat = im.entries.length → (RawSettings.ofBytes fields).bind RawSettings.check = some c →
            ((∃ d ∈ im.entries, d.lane = c.lane ∧ d.address = c.address) → failed .duplicateAddress)
            ∧ ((∀ d ∈ im.entries, ¬(d.lane = c.lane ∧ d.address = c.address)) →
                kept { got with entries := im.entries ++ [c] }))
    ∧ (bytes.length = 2 → im.received.length = 6 + 12 * im.count → im.entries.length = im.count →
        (bytes = be16 (crc16 im.received) → kept got) ∧ (bytes ≠ be16 (crc16 im.received) → failed .badCheck))

/-- A wire failure ends the load at once, with NO_DEVICE or STRETCH_TIMEOUT; a loss of arbitration before the eighth transfer only
makes the loader wait. It loses arbitration at a moment R98 names and at no other: at its START or the address W, at the repeated START or
the address R, at the NACK to the last byte of a field that fails (that this is a loss and not yet the field's failure is log 31), or at
the NACK or the STOP after a valid check. The table and the speeds stay as they were, and lane A goes IDLE with the timing of its lines going on (R194,
R199, R201). That the clock limit ends on the microsecond count and the data limit at a tick, and that a line still low then takes the
lane on by rows of its own, is log 20; that a clock hold in the NACK to a failing field ends the load STRETCH_TIMEOUT is log 36. -/
def Obligations.ImageWireFailures : Prop :=
  ∀ s : State, s.resetAsserted = false →
    let failed (c : Instr) (r : LoadFailure) (clock data : Option Nat) : Prop := ∃ u, exec c s = .next u
      ∧ u.loader.state = .loadFailed ∧ u.loader.reason = some r ∧ u.loader.phase = .none
      ∧ u.laneA = { s.laneA with mode := .idle, clockLowFrom := clock, dataLowFrom := data }
      ∧ u.laneB = s.laneB ∧ u.table = s.table
    (∀ w, s.loader.phase = .transfer → s.loader.image.received = [] →
      failed (.imageAddressNack w) .noDevice s.laneA.clockLowFrom s.laneA.dataLowFrom)
    ∧ (∀ offsets field, s.loader.phase = .transfer →
        let im := s.loader.image
        let moment : Prop :=
          field = [] ∧ im.received = [] ∧ (offsets = 0 ∨ offsets = 2)
            ∨ offsets = 2 ∧ field = [] ∧ im.next = none
            ∨ offsets = 2 ∧ ∃ f, im.next = some f ∧ field.length = f.size ∧ ∃ reason, im.judge f field = .error reason
        (moment → 8 ≤ s.loader.transfers →
          failed (.imageArbLost offsets field) .noDevice s.laneA.clockLowFrom s.laneA.dataLowFrom)
        ∧ (moment → s.loader.transfers < 8 → ∃ u, exec (.imageArbLost offsets field) s = .next u ∧ u.loader.phase = .waitFree
            ∧ u.loader.state = s.loader.state ∧ u.loader.transfers = s.loader.transfers ∧ u.table = s.table
            ∧ u.laneA = { s.laneA with lowSeen := s.elapsed } ∧ u.laneB = s.laneB)
        ∧ (¬moment → exec (.imageArbLost offsets field) s = .next s))
    ∧ (∀ since offsets extra, since + 25000 < s.elapsed → (∀ k, s.laneA.clockLowFrom = some k → k ≤ since) →
        (s.loader.phase = .waitHigh ∨ s.loader.phase = .waitFree
          ∨ s.loader.phase = .transfer ∧ s.loader.image.reached offsets extra = true) →
        failed (.imageStretchTimeout since offsets extra) .stretchTimeout (some since) s.laneA.dataLowFrom)
    ∧ (∀ since, expiryTick since 35 * 1000 ≤ s.elapsed → (s.loader.phase = .waitHigh ∨ s.loader.phase = .waitFree) →
        (∀ k, s.laneA.dataLowFrom = some k → k ≤ since) → failed (.imageDataStuck since) .noDevice none (some since))

/-- A transfer of the Image Loader begins once both lines of lane A have been high for 1 ms (on the microsecond count: log 29), or,
after a loss of arbitration, at a STOP; it starts afresh at offset 0 (R197, R199). The STOP after a valid image applies it: entry k
takes the k-th image entry and is ONLINE with fault count 0 and a FREE lease, the other entries stay, both speeds take the header's
values, the load state is LOADED, lane A goes IDLE, and no notice is produced (R200, R202: the trace is OFF). A transfer runs at 100 kHz
whatever speed lane A has, 90 microseconds a byte: four are sent and, of an image of N entries, 8 + 12 N are read (R197). -/
def Obligations.ImageTransfersBeginAndApply : Prop :=
  (∀ s : State, s.laneA.mode = .load → s.loader.phase = .transfer → s.wireSpeed .A = some .k100)
  ∧ (∀ (p : Straps) (n : Nat), imageNs p (8 + 12 * n) = (4 + (8 + 12 * n)) * 90000)
  ∧ (∀ s : State, s.resetAsserted = false →
    let begun : State :=
      { s with
        loader := { s.loader with
          phase := .transfer, transfers := s.loader.transfers + 1, start := s.elapsed
          image := { received := [], count := 0, speedA := .k100, speedB := .k100, entries := [] } }
        laneA := { s.laneA with clockLowFrom := some s.elapsed, dataLowFrom := some s.elapsed } }
    (∀ since, (s.loader.phase = .waitHigh ∨ s.loader.phase = .waitFree) → since + 1000 ≤ s.elapsed →
      s.laneA.lowSeen ≤ since → exec (.imageLoadStart since) s = .next begun)
    ∧ (s.loader.phase = .waitFree → exec .imageWaitStopSeen s = .next begun))
  ∧ ∀ s : State, s.resetAsserted = false → s.loader.phase = .transfer → s.trace.state = .off →
    s.loader.image.entries.length = s.loader.image.count →
    s.loader.image.received.length = 8 + 12 * s.loader.image.count →
    ∃ u, exec .imageLoadSuccess s = .next u
      ∧ (∀ t, u.entry t = match s.loader.image.entries[t.val]? with
          | some c => { state := .online, cfg := c, faults := 0
                        lease := { (s.entry t).lease with state := .free, waiters := [] } }
          | none => s.entry t)
      ∧ u.laneA = { s.laneA with mode := .idle, closing := false, clockLowFrom := none, dataLowFrom := none
                                 speed := s.loader.image.speedA }
      ∧ u.laneB = { s.laneB with speed := s.loader.image.speedB }
      ∧ u.loader.state = .loaded ∧ u.loader.reason = none ∧ u.loader.phase = .none
      ∧ u.hosts = s.hosts ∧ u.trace = s.trace

/-! ## Laws that every step keeps -/

/-- Free credits, submission entries and completion records of each host come to 16 after every step from a state in which they
do (R30). -/
def Obligations.CreditLawIsKept : Prop :=
  ∀ s t : State, s.creditLaw → step s = .next t → t.creditLaw

/-- Every Submission Queue keeps its form: work is QUEUED or RUNNING as a whole, no two of a host's entries and completion records have
the same tag, and the last work of a queue is an open chain exactly while the chain-assembly record says so (R29, R34, R36, R83). And the
queues keep fitting the table: entries name defined targets, the targets of a chain lie on one lane, and the elements of a chain have one
bypass count, 8 at most (R14, R34, R70, R82). -/
def Obligations.QueueLawIsKept : Prop :=
  (∀ s t : State, s.queueLaw → step s = .next t → t.queueLaw) ∧ ∀ s t : State, s.workLaw → step s = .next t → t.workLaw

/-- No two defined table entries have the same lane and address after any step, the end of an image load included (R1, R15, R198,
R200). -/
def Obligations.TableLawIsKept : Prop :=
  ∀ s t : State, s.tableLaw → step s = .next t → t.tableLaw

/-- Every lane's fields fit its state after every step, and every PENDING slot waits for a restart that is in progress (R88, R185). -/
def Obligations.EngineLawIsKept : Prop :=
  ∀ s t : State, s.engineLaw → step s = .next t → t.engineLaw

/-- Some host holds the ADMIN right after every step (R170); and no Notice Queue, wait list or fault count passes its bound (R2, R50,
R139). -/
def Obligations.AdminAndBoundsAreKept : Prop :=
  (∀ s t : State, s.adminLaw → step s = .next t → t.adminLaw) ∧ ∀ s t : State, s.boundsLaw → step s = .next t → t.boundsLaw

/-- The queues' markers and the lists keep their promises after every step: the presented-completion marker names the head record
(R135), a presented notice is there (R144), no two ALERT records that are not presented are for one target (R139, R142), no wait list
holds a host twice, and none holds the lease's holder (R50). -/
def Obligations.RecordsLawIsKept : Prop :=
  ∀ s t : State, s.recordsLaw → step s = .next t → t.recordsLaw

/-- The laws hold right after the release of every device reset, whatever the pins read, and in State.reset (R30, R167 to R170,
R193). -/
def Obligations.LawsHoldAfterReset : Prop :=
  (∀ (p : ResetPins) (q : List Instr), let t := State.afterRelease p q
    t.creditLaw ∧ t.queueLaw ∧ t.workLaw ∧ t.tableLaw ∧ t.engineLaw ∧ t.adminLaw ∧ t.boundsLaw ∧ t.recordsLaw)
  ∧ State.reset.creditLaw ∧ State.reset.queueLaw ∧ State.reset.workLaw ∧ State.reset.tableLaw ∧ State.reset.engineLaw ∧ State.reset.adminLaw
  ∧ State.reset.boundsLaw ∧ State.reset.recordsLaw

end
end

