-- ==== Sys2Proof/Laws/State.lean ====
section
/-! SUPPORT. One lemma per field per update of the state: what each named update leaves and what it changes. -/

namespace Sys2Proof.Machine

/-! ## updHost -/

@[simp] theorem State.updHost_elapsed (s : State) (h : HostId) (f : HostCtx → HostCtx) : (s.updHost h f).elapsed = s.elapsed := rfl
@[simp] theorem State.updHost_resetAsserted (s : State) (h : HostId) (f : HostCtx → HostCtx) : (s.updHost h f).resetAsserted = s.resetAsserted := rfl
@[simp] theorem State.updHost_straps (s : State) (h : HostId) (f : HostCtx → HostCtx) : (s.updHost h f).straps = s.straps := rfl
@[simp] theorem State.updHost_loader (s : State) (h : HostId) (f : HostCtx → HostCtx) : (s.updHost h f).loader = s.loader := rfl
@[simp] theorem State.updHost_table (s : State) (h : HostId) (f : HostCtx → HostCtx) : (s.updHost h f).table = s.table := rfl
@[simp] theorem State.updHost_laneA (s : State) (h : HostId) (f : HostCtx → HostCtx) : (s.updHost h f).laneA = s.laneA := rfl
@[simp] theorem State.updHost_laneB (s : State) (h : HostId) (f : HostCtx → HostCtx) : (s.updHost h f).laneB = s.laneB := rfl
@[simp] theorem State.updHost_trace (s : State) (h : HostId) (f : HostCtx → HostCtx) : (s.updHost h f).trace = s.trace := rfl
@[simp] theorem State.updHost_pending (s : State) (h : HostId) (f : HostCtx → HostCtx) : (s.updHost h f).pending = s.pending := rfl

@[simp] theorem State.updHost_host_self (s : State) (h : HostId) (f : HostCtx → HostCtx) :
    (s.updHost h f).host h = f (s.host h) := by simp [State.updHost, State.host]
theorem State.updHost_host_ne (s : State) {h g : HostId} (f : HostCtx → HostCtx) (hg : g ≠ h) :
    (s.updHost h f).host g = s.host g := by
  have : h.val ≠ g.val := fun e => hg (Fin.ext e.symm)
  simp [State.updHost, State.host, this]
theorem State.updHost_host (s : State) (h g : HostId) (f : HostCtx → HostCtx) :
    (s.updHost h f).host g = if g = h then f (s.host h) else s.host g := by
  by_cases hg : g = h
  · simp [hg]
  · simp [hg, State.updHost_host_ne s f hg]
@[simp] theorem State.updHost_entry (s : State) (h : HostId) (f : HostCtx → HostCtx) (t : TargetId) :
    (s.updHost h f).entry t = s.entry t := rfl
@[simp] theorem State.updHost_lane (s : State) (h : HostId) (f : HostCtx → HostCtx) (x : LaneId) :
    (s.updHost h f).lane x = s.lane x := by cases x <;> rfl
@[simp] theorem State.updHost_updHost (s : State) (h : HostId) (f g : HostCtx → HostCtx) :
    (s.updHost h f).updHost h g = s.updHost h fun c => g (f c) := by
  simp [State.updHost, State.host]

/-! ## updEntry -/

@[simp] theorem State.updEntry_elapsed (s : State) (t : TargetId) (f : TableEntry → TableEntry) : (s.updEntry t f).elapsed = s.elapsed := rfl
@[simp] theorem State.updEntry_resetAsserted (s : State) (t : TargetId) (f : TableEntry → TableEntry) : (s.updEntry t f).resetAsserted = s.resetAsserted := rfl
@[simp] theorem State.updEntry_straps (s : State) (t : TargetId) (f : TableEntry → TableEntry) : (s.updEntry t f).straps = s.straps := rfl
@[simp] theorem State.updEntry_loader (s : State) (t : TargetId) (f : TableEntry → TableEntry) : (s.updEntry t f).loader = s.loader := rfl
@[simp] theorem State.updEntry_hosts (s : State) (t : TargetId) (f : TableEntry → TableEntry) : (s.updEntry t f).hosts = s.hosts := rfl
@[simp] theorem State.updEntry_laneA (s : State) (t : TargetId) (f : TableEntry → TableEntry) : (s.updEntry t f).laneA = s.laneA := rfl
@[simp] theorem State.updEntry_laneB (s : State) (t : TargetId) (f : TableEntry → TableEntry) : (s.updEntry t f).laneB = s.laneB := rfl
@[simp] theorem State.updEntry_trace (s : State) (t : TargetId) (f : TableEntry → TableEntry) : (s.updEntry t f).trace = s.trace := rfl
@[simp] theorem State.updEntry_pending (s : State) (t : TargetId) (f : TableEntry → TableEntry) : (s.updEntry t f).pending = s.pending := rfl

@[simp] theorem State.updEntry_entry_self (s : State) (t : TargetId) (f : TableEntry → TableEntry) :
    (s.updEntry t f).entry t = f (s.entry t) := by simp [State.updEntry, State.entry]
theorem State.updEntry_entry_ne (s : State) {t u : TargetId} (f : TableEntry → TableEntry) (hu : u ≠ t) :
    (s.updEntry t f).entry u = s.entry u := by
  have : t.val ≠ u.val := fun e => hu (Fin.ext e.symm)
  simp [State.updEntry, State.entry, this]
theorem State.updEntry_entry (s : State) (t u : TargetId) (f : TableEntry → TableEntry) :
    (s.updEntry t f).entry u = if u = t then f (s.entry t) else s.entry u := by
  by_cases hu : u = t
  · simp [hu]
  · simp [hu, State.updEntry_entry_ne s f hu]
@[simp] theorem State.updEntry_host (s : State) (t : TargetId) (f : TableEntry → TableEntry) (h : HostId) :
    (s.updEntry t f).host h = s.host h := rfl
@[simp] theorem State.updEntry_lane (s : State) (t : TargetId) (f : TableEntry → TableEntry) (x : LaneId) :
    (s.updEntry t f).lane x = s.lane x := by cases x <;> rfl

/-! ## updLane -/

@[simp] theorem State.updLane_elapsed (s : State) (x : LaneId) (f : Lane → Lane) : (s.updLane x f).elapsed = s.elapsed := by cases x <;> rfl
@[simp] theorem State.updLane_resetAsserted (s : State) (x : LaneId) (f : Lane → Lane) : (s.updLane x f).resetAsserted = s.resetAsserted := by cases x <;> rfl
@[simp] theorem State.updLane_straps (s : State) (x : LaneId) (f : Lane → Lane) : (s.updLane x f).straps = s.straps := by cases x <;> rfl
@[simp] theorem State.updLane_loader (s : State) (x : LaneId) (f : Lane → Lane) : (s.updLane x f).loader = s.loader := by cases x <;> rfl
@[simp] theorem State.updLane_table (s : State) (x : LaneId) (f : Lane → Lane) : (s.updLane x f).table = s.table := by cases x <;> rfl
@[simp] theorem State.updLane_hosts (s : State) (x : LaneId) (f : Lane → Lane) : (s.updLane x f).hosts = s.hosts := by cases x <;> rfl
@[simp] theorem State.updLane_trace (s : State) (x : LaneId) (f : Lane → Lane) : (s.updLane x f).trace = s.trace := by cases x <;> rfl
@[simp] theorem State.updLane_pending (s : State) (x : LaneId) (f : Lane → Lane) : (s.updLane x f).pending = s.pending := by cases x <;> rfl

@[simp] theorem State.updLane_lane_self (s : State) (x : LaneId) (f : Lane → Lane) :
    (s.updLane x f).lane x = f (s.lane x) := by cases x <;> rfl
theorem State.updLane_lane_ne (s : State) {x y : LaneId} (f : Lane → Lane) (hy : y ≠ x) :
    (s.updLane x f).lane y = s.lane y := by cases x <;> cases y <;> first | rfl | exact absurd rfl hy
theorem State.updLane_lane (s : State) (x y : LaneId) (f : Lane → Lane) :
    (s.updLane x f).lane y = if y = x then f (s.lane x) else s.lane y := by cases x <;> cases y <;> rfl
@[simp] theorem State.updLane_host (s : State) (x : LaneId) (f : Lane → Lane) (h : HostId) :
    (s.updLane x f).host h = s.host h := by cases x <;> rfl
@[simp] theorem State.updLane_entry (s : State) (x : LaneId) (f : Lane → Lane) (t : TargetId) :
    (s.updLane x f).entry t = s.entry t := by cases x <;> rfl
@[simp] theorem State.updLane_updLane (s : State) (x : LaneId) (f g : Lane → Lane) :
    (s.updLane x f).updLane x g = s.updLane x fun l => g (f l) := by cases x <;> rfl

/-! ## updLease, updPort, sdoZeros -/

theorem State.updLease_entry (s : State) (t u : TargetId) (f : Lease → Lease) :
    (s.updLease t f).entry u = if u = t then { s.entry t with lease := f (s.entry t).lease } else s.entry u :=
  State.updEntry_entry s t u _
@[simp] theorem State.updLease_host (s : State) (t : TargetId) (f : Lease → Lease) (h : HostId) :
    (s.updLease t f).host h = s.host h := rfl
@[simp] theorem State.updLease_lane (s : State) (t : TargetId) (f : Lease → Lease) (x : LaneId) :
    (s.updLease t f).lane x = s.lane x := by cases x <;> rfl
@[simp] theorem State.updLease_elapsed (s : State) (t : TargetId) (f : Lease → Lease) : (s.updLease t f).elapsed = s.elapsed := rfl
@[simp] theorem State.updLease_resetAsserted (s : State) (t : TargetId) (f : Lease → Lease) : (s.updLease t f).resetAsserted = s.resetAsserted := rfl
@[simp] theorem State.updLease_straps (s : State) (t : TargetId) (f : Lease → Lease) : (s.updLease t f).straps = s.straps := rfl
@[simp] theorem State.updLease_loader (s : State) (t : TargetId) (f : Lease → Lease) : (s.updLease t f).loader = s.loader := rfl
@[simp] theorem State.updLease_hosts (s : State) (t : TargetId) (f : Lease → Lease) : (s.updLease t f).hosts = s.hosts := rfl
@[simp] theorem State.updLease_laneA (s : State) (t : TargetId) (f : Lease → Lease) : (s.updLease t f).laneA = s.laneA := rfl
@[simp] theorem State.updLease_laneB (s : State) (t : TargetId) (f : Lease → Lease) : (s.updLease t f).laneB = s.laneB := rfl
@[simp] theorem State.updLease_trace (s : State) (t : TargetId) (f : Lease → Lease) : (s.updLease t f).trace = s.trace := rfl
@[simp] theorem State.updLease_pending (s : State) (t : TargetId) (f : Lease → Lease) : (s.updLease t f).pending = s.pending := rfl

@[simp] theorem State.updPort_elapsed (s : State) (h : HostId) (f : Port → Port) : (s.updPort h f).elapsed = s.elapsed := rfl
@[simp] theorem State.updPort_resetAsserted (s : State) (h : HostId) (f : Port → Port) : (s.updPort h f).resetAsserted = s.resetAsserted := rfl
@[simp] theorem State.updPort_straps (s : State) (h : HostId) (f : Port → Port) : (s.updPort h f).straps = s.straps := rfl
@[simp] theorem State.updPort_loader (s : State) (h : HostId) (f : Port → Port) : (s.updPort h f).loader = s.loader := rfl
@[simp] theorem State.updPort_table (s : State) (h : HostId) (f : Port → Port) : (s.updPort h f).table = s.table := rfl
@[simp] theorem State.updPort_laneA (s : State) (h : HostId) (f : Port → Port) : (s.updPort h f).laneA = s.laneA := rfl
@[simp] theorem State.updPort_laneB (s : State) (h : HostId) (f : Port → Port) : (s.updPort h f).laneB = s.laneB := rfl
@[simp] theorem State.updPort_trace (s : State) (h : HostId) (f : Port → Port) : (s.updPort h f).trace = s.trace := rfl
@[simp] theorem State.updPort_pending (s : State) (h : HostId) (f : Port → Port) : (s.updPort h f).pending = s.pending := rfl

@[simp] theorem State.updPort_port_self (s : State) (h : HostId) (f : Port → Port) :
    ((s.updPort h f).host h).port = f (s.host h).port := by simp [State.updPort]
theorem State.updPort_host (s : State) (h g : HostId) (f : Port → Port) :
    (s.updPort h f).host g = if g = h then { s.host h with port := f (s.host h).port } else s.host g :=
  State.updHost_host s h g _
@[simp] theorem State.updPort_updPort (s : State) (h : HostId) (f g : Port → Port) :
    (s.updPort h f).updPort h g = s.updPort h fun q => g (f q) := by simp [State.updPort]
@[simp] theorem State.updPort_entry (s : State) (h : HostId) (f : Port → Port) (t : TargetId) :
    (s.updPort h f).entry t = s.entry t := rfl
@[simp] theorem State.updPort_lane (s : State) (h : HostId) (f : Port → Port) (x : LaneId) :
    (s.updPort h f).lane x = s.lane x := by cases x <;> rfl
theorem State.respond_sdoZeros (s : State) (h : HostId) (f : Frame) (r : Reply) (n : Nat) :
    (s.respond h f r).sdoZeros h n = s.updPort h fun q => { q.store f.exch (Frame.check f) r with sdo := List.replicate n 0 } := by
  simp [State.respond, State.sdoZeros]

/-! ## The queue of waiting commands -/

@[simp] theorem State.withPending_elapsed (s : State) (q : List Instr) : ({ s with pending := q } : State).elapsed = s.elapsed := rfl
@[simp] theorem State.withPending_resetAsserted (s : State) (q : List Instr) : ({ s with pending := q } : State).resetAsserted = s.resetAsserted := rfl
@[simp] theorem State.withPending_straps (s : State) (q : List Instr) : ({ s with pending := q } : State).straps = s.straps := rfl
@[simp] theorem State.withPending_loader (s : State) (q : List Instr) : ({ s with pending := q } : State).loader = s.loader := rfl
@[simp] theorem State.withPending_table (s : State) (q : List Instr) : ({ s with pending := q } : State).table = s.table := rfl
@[simp] theorem State.withPending_hosts (s : State) (q : List Instr) : ({ s with pending := q } : State).hosts = s.hosts := rfl
@[simp] theorem State.withPending_laneA (s : State) (q : List Instr) : ({ s with pending := q } : State).laneA = s.laneA := rfl
@[simp] theorem State.withPending_laneB (s : State) (q : List Instr) : ({ s with pending := q } : State).laneB = s.laneB := rfl
@[simp] theorem State.withPending_trace (s : State) (q : List Instr) : ({ s with pending := q } : State).trace = s.trace := rfl
@[simp] theorem State.withPending_host (s : State) (q : List Instr) (h : HostId) :
    ({ s with pending := q } : State).host h = s.host h := rfl
@[simp] theorem State.withPending_entry (s : State) (q : List Instr) (t : TargetId) :
    ({ s with pending := q } : State).entry t = s.entry t := rfl
@[simp] theorem State.withPending_lane (s : State) (q : List Instr) (x : LaneId) :
    ({ s with pending := q } : State).lane x = s.lane x := by cases x <;> rfl

/-! ## The gate of a device reset -/

@[simp] theorem State.live_of_reset (s : State) (f : State → State) (h : s.resetAsserted = true) : s.live f = s := by
  simp [State.live, h]
@[simp] theorem State.live_of_released (s : State) (f : State → State) (h : s.resetAsserted = false) : s.live f = f s := by
  simp [State.live, h]
/-- A gated event leaves the state or has its effect. -/
theorem State.live_cases (s : State) (f : State → State) : s.live f = s ∨ (s.resetAsserted = false ∧ s.live f = f s) := by
  unfold State.live
  split
  · exact .inl rfl
  · exact .inr ⟨by simp_all, rfl⟩

/-! ## The gate of a port -/

@[simp] theorem State.onPort_of_deaf (s : State) (h : HostId) (lasted : Nat) (f : State → State)
    (d : s.hears h lasted = false) : s.onPort h lasted f = s := by simp [State.onPort, d]
@[simp] theorem State.onPort_of_hearing (s : State) (h : HostId) (lasted : Nat) (f : State → State)
    (d : s.hears h lasted = true) : s.onPort h lasted f = f s := by simp [State.onPort, d]
/-- A transfer on a port leaves the state or has its effect (R186). -/
theorem State.onPort_cases (s : State) (h : HostId) (lasted : Nat) (f : State → State) :
    s.onPort h lasted f = s ∨ (s.hears h lasted = true ∧ s.onPort h lasted f = f s) := by
  cases d : s.hears h lasted
  · exact .inl (by simp [d])
  · exact .inr ⟨rfl, by simp [d]⟩
/-- A port that takes part in a transfer belongs to an ATTACHED host, outside a device reset (R186, R193). -/
theorem State.hears_attached {s : State} {h : HostId} {lasted : Nat} (d : s.hears h lasted = true) :
    s.resetAsserted = false ∧ (s.host h).attached = true := by
  simp only [State.hears, Bool.and_eq_true, Bool.not_eq_true'] at d
  exact d.1

/-! ## Extensionality by hosts, entries and lanes -/

theorem State.hosts_ext {s t : State} (h : ∀ g, s.host g = t.host g) : s.hosts = t.hosts := by
  apply Vector.ext
  intro i hi
  exact h ⟨i, hi⟩
theorem State.table_ext {s t : State} (h : ∀ u, s.entry u = t.entry u) : s.table = t.table := by
  apply Vector.ext
  intro i hi
  exact h ⟨i, hi⟩

end Sys2Proof.Machine
end

