-- ==== Sys2Proof/Laws/Queues.lean ====
section
/-! SUPPORT. What the shared queue operations can do: dividing a Submission Queue, appending records, ending queued work, and
taking a notice. -/

namespace Sys2Proof.Machine

/-! ## Dividing a Submission Queue -/

/-- Putting an entry before a divided queue. -/
theorem groups_cons (e : SubEntry) (es : List SubEntry) :
    groups (e :: es) = match groups es with
      | (c :: g) :: gs => if c.continues then (e :: c :: g) :: gs else [e] :: (c :: g) :: gs
      | gs => [e] :: gs := rfl

/-- Division loses nothing and keeps the order. -/
theorem groups_flatten (es : List SubEntry) : (groups es).flatten = es := by
  induction es with
  | nil => rfl
  | cons e es ih =>
    rw [groups_cons]
    split
    · next c g gs h =>
      rw [h] at ih
      split <;> simpa using ih
    · next gs _ => simpa using ih

/-- A divided queue has no empty part. -/
theorem groups_ne_nil (es : List SubEntry) : ∀ g ∈ groups es, g ≠ [] := by
  induction es with
  | nil => simp [groups]
  | cons e es ih =>
    rw [groups_cons]
    split
    · next c g gs h =>
      rw [h] at ih
      split <;> simp_all
    · next gs _ => simp_all

/-- The head of the first part is the head of the queue. -/
theorem groups_head (es : List SubEntry) : (groups es).head?.bind List.head? = es.head? := by
  cases es with
  | nil => rfl
  | cons e es =>
    rw [groups_cons]
    split
    · split <;> rfl
    · rfl

/-- An entry before a queue that starts afresh is a part of its own. -/
theorem groups_cons_fresh (e : SubEntry) (es : List SubEntry) (h : startsAfresh es = true) :
    groups (e :: es) = [e] :: groups es := by
  have hh := groups_head es
  rw [groups_cons]
  split
  · next c g gs hg =>
    rw [hg] at hh
    have : es.head? = some c := by simpa using hh.symm
    simp [startsAfresh, this] at h
    simp [h, hg]
  · rfl

/-- An entry before one that continues it joins its part. -/
theorem groups_cons_joined (e c : SubEntry) (es g : List SubEntry) (gs : List (List SubEntry)) (hc : c.continues = true)
    (hg : groups (c :: es) = (c :: g) :: gs) : groups (e :: c :: es) = (e :: c :: g) :: gs := by
  rw [groups_cons, hg]
  simp [hc]

/-- Work that is whole, before a queue that starts afresh, is the first part. -/
theorem groups_whole_append (g post : List SubEntry) (hg : wholeWork g = true) (hp : startsAfresh post = true) :
    groups (g ++ post) = g :: groups post := by
  cases g with
  | nil => simp [wholeWork] at hg
  | cons e es =>
    have hcont : ∀ c ∈ es, c.continues = true := by simpa [wholeWork] using (by simpa [wholeWork] using hg : _ ∧ _).2
    clear hg
    induction es generalizing e with
    | nil => exact groups_cons_fresh e post hp
    | cons c cs ih =>
      exact groups_cons_joined e c (cs ++ post) cs (groups post) (hcont c (by simp))
        (ih c fun d hd => hcont d (by simp [hd]))

/-- Whole work divides a queue at its place. -/
theorem groups_split (pre g post : List SubEntry) (hg : wholeWork g = true) (hp : startsAfresh post = true) :
    groups (pre ++ g ++ post) = groups pre ++ g :: groups post := by
  induction pre with
  | nil => simpa [groups] using groups_whole_append g post hg hp
  | cons e es ih =>
    have ih' : groups (es ++ (g ++ post)) = groups es ++ g :: groups post := by simpa using ih
    cases es with
    | nil =>
      have hs : startsAfresh (g ++ post) = true := by
        cases g with
        | nil => simp [wholeWork] at hg
        | cons d ds =>
          have : d.continues = false := by
            have := (by simpa [wholeWork] using hg : d.continues = false ∧ _).1
            exact this
          simp [startsAfresh, this]
      simpa [groups_whole_append g post hg hp, groups] using groups_cons_fresh e (g ++ post) hs
    | cons d ds =>
      have hd := groups_head (d :: ds)
      cases hgs : groups (d :: ds) with
      | nil => rw [hgs] at hd; simp at hd
      | cons g' gs' =>
        cases g' with
        | nil => exact absurd rfl (groups_ne_nil (d :: ds) [] (by rw [hgs]; simp))
        | cons d' r =>
          have key : groups (d :: (ds ++ (g ++ post))) = (d' :: r) :: (gs' ++ g :: groups post) := by
            simpa [hgs] using ih'
          have lhs : groups (e :: d :: (ds ++ (g ++ post)))
              = if d'.continues then (e :: d' :: r) :: (gs' ++ g :: groups post)
                else [e] :: (d' :: r) :: (gs' ++ g :: groups post) := by
            rw [groups_cons, key]
          have rhs : groups (e :: d :: ds)
              = if d'.continues then (e :: d' :: r) :: gs' else [e] :: (d' :: r) :: gs' := by
            rw [groups_cons, hgs]
          simp only [List.cons_append, List.append_assoc]
          rw [lhs, rhs]
          split <;> simp

/-! ## Records -/

@[simp] theorem markFirstFault_length (recs : List Completion) : (markFirstFault recs).length = recs.length := by
  induction recs with
  | nil => rfl
  | cons r rs ih =>
    unfold markFirstFault
    split <;> simp [ih]

/-- Marking changes the paused marker alone. -/
theorem markFirstFault_map {α : Type} (f : Completion → α) (hf : ∀ r b, f { r with pausedMark := b } = f r)
    (recs : List Completion) : (markFirstFault recs).map f = recs.map f := by
  induction recs with
  | nil => rfl
  | cons r rs ih =>
    unfold markFirstFault
    split <;> simp [ih, hf]

/-- A batch without a fault status is not marked. -/
theorem markFirstFault_of_none (recs : List Completion) (h : ∀ r ∈ recs, r.status.isFault = false) :
    markFirstFault recs = recs := by
  induction recs with
  | nil => rfl
  | cons r rs ih =>
    unfold markFirstFault
    simp [h r (by simp), ih fun q hq => h q (by simp [hq])]

@[simp] theorem HostCtx.appendRecords_sq (c : HostCtx) (recs : List Completion) : (c.appendRecords recs).sq = c.sq := by
  unfold HostCtx.appendRecords; split <;> rfl
@[simp] theorem HostCtx.appendRecords_nq (c : HostCtx) (recs : List Completion) : (c.appendRecords recs).nq = c.nq := by
  unfold HostCtx.appendRecords; split <;> rfl
@[simp] theorem HostCtx.appendRecords_credits (c : HostCtx) (recs : List Completion) :
    (c.appendRecords recs).credits = c.credits := by
  unfold HostCtx.appendRecords; split <;> rfl
@[simp] theorem HostCtx.appendRecords_attached (c : HostCtx) (recs : List Completion) :
    (c.appendRecords recs).attached = c.attached := by
  unfold HostCtx.appendRecords; split <;> rfl
@[simp] theorem HostCtx.appendRecords_rights (c : HostCtx) (recs : List Completion) :
    (c.appendRecords recs).rights = c.rights := by
  unfold HostCtx.appendRecords; split <;> rfl
@[simp] theorem HostCtx.appendRecords_chain (c : HostCtx) (recs : List Completion) : (c.appendRecords recs).chain = c.chain := by
  unfold HostCtx.appendRecords; split <;> rfl
@[simp] theorem HostCtx.appendRecords_port (c : HostCtx) (recs : List Completion) : (c.appendRecords recs).port = c.port := by
  unfold HostCtx.appendRecords; split <;> rfl
@[simp] theorem HostCtx.appendRecords_cq_length (c : HostCtx) (recs : List Completion) :
    (c.appendRecords recs).cq.length = c.cq.length + recs.length := by
  unfold HostCtx.appendRecords; split <;> simp
/-- The records before a batch stay, and the batch differs from what is appended in a paused marker at most. -/
theorem HostCtx.appendRecords_cq (c : HostCtx) (recs : List Completion) :
    (c.appendRecords recs).cq = c.cq ++ recs ∨ (c.appendRecords recs).cq = c.cq ++ markFirstFault recs := by
  unfold HostCtx.appendRecords; split
  · exact .inr rfl
  · exact .inl rfl

/-! ## Ending queued work -/

/-- The parts that stay and the parts that end make up the queue. -/
theorem partition_length (p : List SubEntry → Bool) (gs : List (List SubEntry)) :
    (gs.filter fun g => !p g).flatten.length + (gs.filter p).flatten.length = gs.flatten.length := by
  induction gs with
  | nil => rfl
  | cons g gs ih =>
    cases hp : p g <;> simp [hp] <;> simp at ih <;> omega

theorem HostCtx.endWork_sq (c : HostCtx) (hit : List SubEntry → Bool) (st : SubEntry → CStatus) (stamp : Stamp) :
    (c.endWork hit st stamp).sq = ((groups c.sq).filter fun g => !endsGroup hit g).flatten := by
  simp [HostCtx.endWork]
/-- Ending work moves entries from the Submission Queue to the Completion Queue. -/
theorem HostCtx.endWork_lengths (c : HostCtx) (hit : List SubEntry → Bool) (st : SubEntry → CStatus) (stamp : Stamp) :
    (c.endWork hit st stamp).sq.length + (c.endWork hit st stamp).cq.length = c.sq.length + c.cq.length := by
  have h := partition_length (endsGroup hit) (groups c.sq)
  rw [groups_flatten] at h
  simp only [HostCtx.endWork, HostCtx.appendRecords_sq, HostCtx.appendRecords_cq_length, List.length_map]
  omega
@[simp] theorem HostCtx.endWork_credits (c : HostCtx) (hit : List SubEntry → Bool) (st : SubEntry → CStatus) (stamp : Stamp) :
    (c.endWork hit st stamp).credits = c.credits := by simp [HostCtx.endWork]
@[simp] theorem HostCtx.endWork_nq (c : HostCtx) (hit : List SubEntry → Bool) (st : SubEntry → CStatus) (stamp : Stamp) :
    (c.endWork hit st stamp).nq = c.nq := by simp [HostCtx.endWork]
@[simp] theorem HostCtx.endWork_attached (c : HostCtx) (hit : List SubEntry → Bool) (st : SubEntry → CStatus) (stamp : Stamp) :
    (c.endWork hit st stamp).attached = c.attached := by simp [HostCtx.endWork]
@[simp] theorem HostCtx.endWork_rights (c : HostCtx) (hit : List SubEntry → Bool) (st : SubEntry → CStatus) (stamp : Stamp) :
    (c.endWork hit st stamp).rights = c.rights := by simp [HostCtx.endWork]
@[simp] theorem HostCtx.endWork_port (c : HostCtx) (hit : List SubEntry → Bool) (st : SubEntry → CStatus) (stamp : Stamp) :
    (c.endWork hit st stamp).port = c.port := by simp [HostCtx.endWork]

/-- The RUNNING entries of a lane stay when queued work ends. -/
theorem runningOn_parts (x : LaneId) (hit : List SubEntry → Bool) (gs : List (List SubEntry)) :
    (gs.filter fun g => !endsGroup hit g).flatten.filter (fun e => decide (e.state = .running x))
      = gs.flatten.filter fun e => decide (e.state = .running x) := by
  induction gs with
  | nil => rfl
  | cons g gs ih =>
    cases hg : endsGroup hit g with
    | false => simp [hg, ih]
    | true =>
      have hq : ∀ e ∈ g, e.state = .queued := by
        simpa [SubEntry.queued] using (by simpa [endsGroup] using hg : (∀ e ∈ g, e.queued = true) ∧ _).1
      have : g.filter (fun e => decide (e.state = .running x)) = [] := by
        rw [List.filter_eq_nil_iff]
        intro e he
        simp [hq e he]
      simp [hg, ih, this]

@[simp] theorem HostCtx.endWork_runningOn (c : HostCtx) (hit : List SubEntry → Bool) (st : SubEntry → CStatus) (stamp : Stamp)
    (x : LaneId) : (c.endWork hit st stamp).runningOn x = c.runningOn x := by
  rw [HostCtx.runningOn, HostCtx.endWork_sq, runningOn_parts, groups_flatten]
  rfl

/-! ## Notices -/

theorem coalesceIn_length (subj : Subject) (detail : Byte) (ns out : List Notice) (h : coalesceIn subj detail ns = some out) :
    out.length = ns.length := by
  induction ns generalizing out with
  | nil => simp [coalesceIn] at h
  | cons n ns ih =>
    unfold coalesceIn at h
    split at h
    · cases h; rfl
    · cases hc : coalesceIn subj detail ns with
      | none => simp [hc] at h
      | some o => rw [hc] at h; cases h; simp [ih o hc]

/-- Everything a Notice Queue can do with a notice (R142): discard it, put a queue of the same length in place, append, or
overflow. -/
theorem HostCtx.takeNotice_cases (c : HostCtx) (k : NoticeKind) (subj : Subject) (d : Byte) (st : Stamp) :
    c.takeNotice k subj d st = c
      ∨ (∃ ns, ns.length = c.nq.length ∧ c.takeNotice k subj d st = { c with nq := ns })
      ∨ (∃ n, c.nq.length < Config.noticeCapacity ∧ c.takeNotice k subj d st = { c with nq := c.nq ++ [n] })
      ∨ c.takeNotice k subj d st = { c with overflow := true, overflowSeen := false } := by
  unfold HostCtx.takeNotice
  split
  · exact .inl rfl
  · split
    · next ns h =>
      refine .inr (.inl ⟨_, ?_, rfl⟩)
      split at h
      · have hl := coalesceIn_length _ _ _ _ h
        simp only [HostCtx.presentedPart, HostCtx.unpresentedPart] at *
        split <;> simp_all
        omega
      · cases h
    · unfold HostCtx.appendNotice
      split
      · next hl => exact .inr (.inr (.inl ⟨_, hl, rfl⟩))
      · exact .inr (.inr (.inr rfl))

@[simp] theorem HostCtx.takeNotice_sq (c : HostCtx) (k : NoticeKind) (subj : Subject) (d : Byte) (st : Stamp) :
    (c.takeNotice k subj d st).sq = c.sq := by
  rcases c.takeNotice_cases k subj d st with h | ⟨_, _, h⟩ | ⟨_, _, h⟩ | h <;> rw [h]
@[simp] theorem HostCtx.takeNotice_cq (c : HostCtx) (k : NoticeKind) (subj : Subject) (d : Byte) (st : Stamp) :
    (c.takeNotice k subj d st).cq = c.cq := by
  rcases c.takeNotice_cases k subj d st with h | ⟨_, _, h⟩ | ⟨_, _, h⟩ | h <;> rw [h]
@[simp] theorem HostCtx.takeNotice_credits (c : HostCtx) (k : NoticeKind) (subj : Subject) (d : Byte) (st : Stamp) :
    (c.takeNotice k subj d st).credits = c.credits := by
  rcases c.takeNotice_cases k subj d st with h | ⟨_, _, h⟩ | ⟨_, _, h⟩ | h <;> rw [h]
@[simp] theorem HostCtx.takeNotice_rights (c : HostCtx) (k : NoticeKind) (subj : Subject) (d : Byte) (st : Stamp) :
    (c.takeNotice k subj d st).rights = c.rights := by
  rcases c.takeNotice_cases k subj d st with h | ⟨_, _, h⟩ | ⟨_, _, h⟩ | h <;> rw [h]
@[simp] theorem HostCtx.takeNotice_attached (c : HostCtx) (k : NoticeKind) (subj : Subject) (d : Byte) (st : Stamp) :
    (c.takeNotice k subj d st).attached = c.attached := by
  rcases c.takeNotice_cases k subj d st with h | ⟨_, _, h⟩ | ⟨_, _, h⟩ | h <;> rw [h]
@[simp] theorem HostCtx.takeNotice_port (c : HostCtx) (k : NoticeKind) (subj : Subject) (d : Byte) (st : Stamp) :
    (c.takeNotice k subj d st).port = c.port := by
  rcases c.takeNotice_cases k subj d st with h | ⟨_, _, h⟩ | ⟨_, _, h⟩ | h <;> rw [h]
@[simp] theorem HostCtx.takeNotice_runningOn (c : HostCtx) (k : NoticeKind) (subj : Subject) (d : Byte) (st : Stamp) (x : LaneId) :
    (c.takeNotice k subj d st).runningOn x = c.runningOn x := by simp [HostCtx.runningOn]

end Sys2Proof.Machine
end

