-- ==== Sys2Proof/Laws/Frames.lean ====
section
/-! SUPPORT. What each shared operation can touch: the hosts alone, the hosts and the table, or these and the trace; and the
induction, done once, that a property of a host which notices and ended work keep is kept by all of them. -/

namespace Sys2Proof.Machine

/-! ## Three footprints -/

/-- Every field but the hosts is the same. -/
structure State.OnlyHosts (s t : State) : Prop where
  elapsed : t.elapsed = s.elapsed
  resetAsserted : t.resetAsserted = s.resetAsserted
  straps : t.straps = s.straps
  loader : t.loader = s.loader
  table : t.table = s.table
  laneA : t.laneA = s.laneA
  laneB : t.laneB = s.laneB
  trace : t.trace = s.trace
  pending : t.pending = s.pending

/-- Every field but the hosts and the table is the same. -/
structure State.OnlyTables (s t : State) : Prop where
  elapsed : t.elapsed = s.elapsed
  resetAsserted : t.resetAsserted = s.resetAsserted
  straps : t.straps = s.straps
  loader : t.loader = s.loader
  laneA : t.laneA = s.laneA
  laneB : t.laneB = s.laneB
  trace : t.trace = s.trace
  pending : t.pending = s.pending

/-- Every field but the hosts, the table and the trace is the same. -/
structure State.OnlyRecords (s t : State) : Prop where
  elapsed : t.elapsed = s.elapsed
  resetAsserted : t.resetAsserted = s.resetAsserted
  straps : t.straps = s.straps
  loader : t.loader = s.loader
  laneA : t.laneA = s.laneA
  laneB : t.laneB = s.laneB
  pending : t.pending = s.pending

theorem State.OnlyHosts.refl (s : State) : s.OnlyHosts s := ⟨rfl, rfl, rfl, rfl, rfl, rfl, rfl, rfl, rfl⟩
theorem State.OnlyTables.refl (s : State) : s.OnlyTables s := ⟨rfl, rfl, rfl, rfl, rfl, rfl, rfl, rfl⟩
theorem State.OnlyRecords.refl (s : State) : s.OnlyRecords s := ⟨rfl, rfl, rfl, rfl, rfl, rfl, rfl⟩

theorem State.OnlyHosts.trans {s t u : State} (a : s.OnlyHosts t) (b : t.OnlyHosts u) : s.OnlyHosts u :=
  ⟨b.1.trans a.1, b.2.trans a.2, b.3.trans a.3, b.4.trans a.4, b.5.trans a.5, b.6.trans a.6, b.7.trans a.7, b.8.trans a.8,
    b.9.trans a.9⟩
theorem State.OnlyTables.trans {s t u : State} (a : s.OnlyTables t) (b : t.OnlyTables u) : s.OnlyTables u :=
  ⟨b.1.trans a.1, b.2.trans a.2, b.3.trans a.3, b.4.trans a.4, b.5.trans a.5, b.6.trans a.6, b.7.trans a.7, b.8.trans a.8⟩
theorem State.OnlyRecords.trans {s t u : State} (a : s.OnlyRecords t) (b : t.OnlyRecords u) : s.OnlyRecords u :=
  ⟨b.1.trans a.1, b.2.trans a.2, b.3.trans a.3, b.4.trans a.4, b.5.trans a.5, b.6.trans a.6, b.7.trans a.7⟩

theorem State.OnlyHosts.tables {s t : State} (a : s.OnlyHosts t) : s.OnlyTables t :=
  ⟨a.elapsed, a.resetAsserted, a.straps, a.loader, a.laneA, a.laneB, a.trace, a.pending⟩
theorem State.OnlyTables.records {s t : State} (a : s.OnlyTables t) : s.OnlyRecords t :=
  ⟨a.elapsed, a.resetAsserted, a.straps, a.loader, a.laneA, a.laneB, a.pending⟩
theorem State.OnlyHosts.records {s t : State} (a : s.OnlyHosts t) : s.OnlyRecords t := a.tables.records

theorem State.OnlyHosts.entry {s t : State} (a : s.OnlyHosts t) (u : TargetId) : t.entry u = s.entry u := by
  simp [State.entry, a.table]
theorem State.OnlyHosts.lane {s t : State} (a : s.OnlyHosts t) (x : LaneId) : t.lane x = s.lane x := by
  cases x <;> simp [State.lane, a.laneA, a.laneB]
theorem State.OnlyTables.lane {s t : State} (a : s.OnlyTables t) (x : LaneId) : t.lane x = s.lane x := by
  cases x <;> simp [State.lane, a.laneA, a.laneB]
theorem State.OnlyRecords.lane {s t : State} (a : s.OnlyRecords t) (x : LaneId) : t.lane x = s.lane x := by
  cases x <;> simp [State.lane, a.laneA, a.laneB]

/-! ## The induction over hosts, once -/

/-- A property of a host that notices and the ending of queued work keep. -/
structure HostLaw (P : HostCtx → Prop) : Prop where
  notice : ∀ c k subj d st, P c → P (HostCtx.takeNotice c k subj d st)
  ended : ∀ c hit st stamp, P c → P (HostCtx.endWork c hit st stamp)

/-- An operation touches the hosts alone, through notices and ended work. -/
structure State.HostsOnly (s t : State) : Prop where
  rest : s.OnlyHosts t
  keeps : ∀ P, HostLaw P → ∀ g, P (s.host g) → P (t.host g)

/-- An operation touches the hosts, through notices and ended work, and the table. -/
structure State.TablesOnly (s t : State) : Prop where
  rest : s.OnlyTables t
  keeps : ∀ P, HostLaw P → ∀ g, P (s.host g) → P (t.host g)

/-- An operation touches the hosts, through notices and ended work, the table and the trace. -/
structure State.RecordsOnly (s t : State) : Prop where
  rest : s.OnlyRecords t
  keeps : ∀ P, HostLaw P → ∀ g, P (s.host g) → P (t.host g)

theorem State.HostsOnly.refl (s : State) : s.HostsOnly s := ⟨.refl s, fun _ _ _ h => h⟩
theorem State.TablesOnly.refl (s : State) : s.TablesOnly s := ⟨.refl s, fun _ _ _ h => h⟩
theorem State.RecordsOnly.refl (s : State) : s.RecordsOnly s := ⟨.refl s, fun _ _ _ h => h⟩
theorem State.HostsOnly.trans {s t u : State} (a : s.HostsOnly t) (b : t.HostsOnly u) : s.HostsOnly u :=
  ⟨a.rest.trans b.rest, fun P hP g h => b.keeps P hP g (a.keeps P hP g h)⟩
theorem State.TablesOnly.trans {s t u : State} (a : s.TablesOnly t) (b : t.TablesOnly u) : s.TablesOnly u :=
  ⟨a.rest.trans b.rest, fun P hP g h => b.keeps P hP g (a.keeps P hP g h)⟩
theorem State.RecordsOnly.trans {s t u : State} (a : s.RecordsOnly t) (b : t.RecordsOnly u) : s.RecordsOnly u :=
  ⟨a.rest.trans b.rest, fun P hP g h => b.keeps P hP g (a.keeps P hP g h)⟩
theorem State.HostsOnly.tables {s t : State} (a : s.HostsOnly t) : s.TablesOnly t := ⟨a.rest.tables, a.keeps⟩
theorem State.TablesOnly.records {s t : State} (a : s.TablesOnly t) : s.RecordsOnly t := ⟨a.rest.records, a.keeps⟩
theorem State.HostsOnly.records {s t : State} (a : s.HostsOnly t) : s.RecordsOnly t := a.tables.records

/-- A fold of operations that each touch the hosts alone does so too. -/
theorem HostsOnly.foldl {α : Type} (f : State → α → State) (hf : ∀ (s : State) (a : α), s.HostsOnly (f s a)) (as : List α) (s : State) :
    s.HostsOnly (as.foldl f s) := by
  induction as generalizing s with
  | nil => exact .refl s
  | cons a as ih => exact (hf s a).trans (ih (f s a))
theorem TablesOnly.foldl {α : Type} (f : State → α → State) (hf : ∀ (s : State) (a : α), s.TablesOnly (f s a)) (as : List α) (s : State) :
    s.TablesOnly (as.foldl f s) := by
  induction as generalizing s with
  | nil => exact .refl s
  | cons a as ih => exact (hf s a).trans (ih (f s a))
theorem RecordsOnly.foldl {α : Type} (f : State → α → State) (hf : ∀ (s : State) (a : α), s.RecordsOnly (f s a)) (as : List α) (s : State) :
    s.RecordsOnly (as.foldl f s) := by
  induction as generalizing s with
  | nil => exact .refl s
  | cons a as ih => exact (hf s a).trans (ih (f s a))

/-! ## Notices and ended work -/

theorem State.notify_only (s : State) (h : HostId) (k : NoticeKind) (subj : Subject) (d : Byte) :
    s.HostsOnly (s.notify h k subj d) :=
  ⟨⟨rfl, rfl, rfl, rfl, rfl, rfl, rfl, rfl, rfl⟩, fun P hP g hg => by
    rw [State.notify, State.updHost_host]
    split
    · next e => subst e; exact hP.notice _ _ _ _ _ hg
    · exact hg⟩
theorem State.notifyAll_only (s : State) (who : HostId → Bool) (k : NoticeKind) (subj : Subject) (d : Byte) :
    s.HostsOnly (s.notifyAll who k subj d) :=
  HostsOnly.foldl _ (fun s h => by
    split
    · exact s.notify_only h k subj d
    · exact .refl s) _ s
theorem State.endWork_only (s : State) (h : HostId) (hit : List SubEntry → Bool) (st : SubEntry → CStatus) :
    s.HostsOnly (s.endWork h hit st) :=
  ⟨⟨rfl, rfl, rfl, rfl, rfl, rfl, rfl, rfl, rfl⟩, fun P hP g hg => by
    rw [State.endWork, State.updHost_host]
    split
    · next e => subst e; exact hP.ended _ _ _ _ hg
    · exact hg⟩
theorem State.endWorkAll_only (s : State) (hit : List SubEntry → Bool) (st : SubEntry → CStatus) :
    s.HostsOnly (s.endWorkAll hit st) :=
  HostsOnly.foldl _ (fun s h => s.endWork_only h hit st) _ s
theorem State.faultSearch_only (s : State) (x : LaneId) : s.HostsOnly (s.faultSearch x) := s.endWorkAll_only _ _
theorem State.tellSubscribers_only (s : State) (t : TargetId) (k : NoticeKind) (d : Byte) :
    s.HostsOnly (s.tellSubscribers t k d) := s.notifyAll_only _ _ _ _
theorem State.tellAttached_only (s : State) (x : LaneId) (k : NoticeKind) : s.HostsOnly (s.tellAttached x k) :=
  s.notifyAll_only _ _ _ _

/-! ## The table and the leases -/

theorem State.updEntry_only (s : State) (t : TargetId) (f : TableEntry → TableEntry) : s.TablesOnly (s.updEntry t f) :=
  ⟨⟨rfl, rfl, rfl, rfl, rfl, rfl, rfl, rfl⟩, fun _ _ _ h => h⟩
theorem State.updLease_only (s : State) (t : TargetId) (f : Lease → Lease) : s.TablesOnly (s.updLease t f) :=
  s.updEntry_only t _
theorem State.quarantine_only (s : State) (t : TargetId) : s.TablesOnly (s.quarantine t) :=
  ((s.updEntry_only t _).trans (State.tellSubscribers_only _ t _ _).tables).trans (State.endWorkAll_only _ _ _).tables
theorem State.countFault_only (s : State) (t : TargetId) (th : Nat) : s.TablesOnly (s.countFault t th) := by
  have key (n : Nat) : s.TablesOnly (if th ≠ 0 ∧ n = th ∧ (s.entry t).state = .online
      then (s.updEntry t fun e => { e with faults := n }).quarantine t else s.updEntry t fun e => { e with faults := n }) := by
    split
    · exact (s.updEntry_only t _).trans (State.quarantine_only _ t)
    · exact s.updEntry_only t _
  unfold State.countFault
  exact (key (if th = 0 ∨ (s.entry t).faults = th then (s.entry t).faults else (s.entry t).faults + 1)).trans
    (State.updEntry_only _ t _)
theorem State.probeRestore_only (s : State) (t : TargetId) : s.TablesOnly (s.probeRestore t) := by
  unfold State.probeRestore
  split
  · exact (s.updEntry_only t _).trans (State.tellSubscribers_only _ t _ _).tables
  · exact .refl s
theorem State.applyStatus_only (s : State) (t : TargetId) (st : CStatus) (probe : Bool) (th : Nat) :
    s.TablesOnly (s.applyStatus t st probe th) := by
  cases st <;> simp only [State.applyStatus] <;> first
    | exact .refl s
    | exact s.countFault_only t th
    | split
      · exact (s.updEntry_only t _).trans (State.probeRestore_only _ t)
      · exact s.updEntry_only t _
theorem State.applyResults_only (s : State) (r : Run) (es : List SubEntry) : s.TablesOnly (s.applyResults r es) :=
  TablesOnly.foldl _ (fun s _ => s.applyStatus_only _ _ _ _) _ s
theorem State.grantCheck_only (s : State) (t : TargetId) : s.TablesOnly (s.grantCheck t) := by
  unfold State.grantCheck
  split
  · split
    · exact .refl s
    · exact (s.updLease_only t _).trans (State.notify_only _ _ _ _ _).tables
  · exact .refl s
theorem State.leaseFree_only (s : State) (t : TargetId) (h : HostId) (r : EndReason) : s.TablesOnly (s.leaseFree t h r) := by
  unfold State.leaseFree
  have key := (s.updLease_only t fun l => { l with state := .free }).trans
    (State.endWork_only _ h (fun g => g.any (leaseWork t)) fun e => if leaseWork t e then .leaseLost else .chainBroken).tables
  dsimp only
  split
  · exact key
  · exact key.trans (State.notify_only _ _ _ _ _).tables
theorem State.leaseFinish_only (s : State) (t : TargetId) (h : HostId) (r : EndReason) :
    s.TablesOnly (s.leaseFinish t h r) := (s.leaseFree_only t h r).trans (State.grantCheck_only _ t)
theorem State.leaseEnd_only (s : State) (t : TargetId) (r : EndReason) : s.TablesOnly (s.leaseEnd t r) := by
  unfold State.leaseEnd
  split
  · split
    · exact s.updLease_only t _
    · exact s.leaseFinish_only t _ r
  all_goals exact .refl s
theorem State.leaseRunEnd_only (s : State) (h : HostId) (t : TargetId) : s.TablesOnly (s.leaseRunEnd h t) := by
  unfold State.leaseRunEnd
  split
  · split
    · exact s.leaseFinish_only t _ _
    · exact .refl s
  all_goals exact s.grantCheck_only t
theorem State.withdraw_only (s : State) (t : TargetId) (h : HostId) : s.TablesOnly (s.withdraw t h) := by
  unfold State.withdraw
  dsimp only
  split
  · exact (s.updLease_only t _).trans (State.grantCheck_only _ t)
  · exact s.updLease_only t _
theorem State.leaseOffline_only (s : State) (t : TargetId) : s.TablesOnly (s.leaseOffline t) :=
  ((s.updLease_only t _).trans
    (HostsOnly.foldl _ (fun s (w : Waiter) => s.notify_only w.host _ _ _) _ _).tables).trans (State.leaseEnd_only _ t _)
theorem State.leaseTeardown_only (s : State) (h : HostId) (t : TargetId) : s.TablesOnly (s.leaseTeardown h t) := by
  unfold State.leaseTeardown
  dsimp only
  split
  · split
    · exact (s.updLease_only t _).trans (State.leaseEnd_only _ t _)
    · exact s.updLease_only t _
  · split
    · exact (s.updLease_only t _).trans (State.updLease_only _ t _)
    · exact s.updLease_only t _
  · split
    · exact (s.updLease_only t _).trans (State.grantCheck_only _ t)
    · exact s.updLease_only t _
theorem State.leaseExpire_only (s : State) (t : TargetId) : s.TablesOnly (s.leaseExpire t) := by
  unfold State.leaseExpire
  split
  · split
    · exact s.leaseEnd_only t _
    · exact .refl s
  all_goals exact .refl s
theorem State.controlOnline_only (s : State) (t : TargetId) : s.TablesOnly (s.controlOnline t) := by
  unfold State.controlOnline
  dsimp only
  split <;> first
    | exact (s.updEntry_only t _).trans (State.tellSubscribers_only _ t _ _).tables
    | exact s.updEntry_only t _
theorem State.controlQuarantine_only (s : State) (t : TargetId) : s.TablesOnly (s.controlQuarantine t) := by
  unfold State.controlQuarantine
  split
  · exact .refl s
  · exact s.quarantine_only t
theorem State.controlOffline_only (s : State) (t : TargetId) : s.TablesOnly (s.controlOffline t) := by
  unfold State.controlOffline
  split
  · exact .refl s
  · exact (((s.updEntry_only t _).trans (State.endWorkAll_only _ _ _).tables).trans (State.leaseOffline_only _ t)).trans
      (State.tellSubscribers_only _ t _ _).tables
theorem State.writeEntry_only (s : State) (t : TargetId) (undefine : Bool) (c : Settings) :
    s.TablesOnly (s.writeEntry t undefine c) := (s.updEntry_only t _).trans (State.notifyAll_only _ _ _ _ _).tables

/-! ## The trace -/

theorem State.offer_only (s : State) (r : TraceRecord) : s.RecordsOnly (s.offer r) := by
  unfold State.offer
  have key : s.RecordsOnly { s with trace := (s.trace.offer r).1 } :=
    ⟨⟨rfl, rfl, rfl, rfl, rfl, rfl, rfl⟩, fun _ _ _ h => h⟩
  split
  next t stop e =>
    have et : t = (s.trace.offer r).1 := by rw [e]
    subst et
    dsimp only
    split
    · exact key.trans (State.notify_only _ _ _ _ _).records
    · exact key
theorem State.offerAll_only (s : State) (rs : List TraceRecord) : s.RecordsOnly (s.offerAll rs) :=
  RecordsOnly.foldl _ (fun s r => s.offer_only r) rs s
theorem State.handOver_only (s : State) (x : LaneId) (v : Visit) (st : CStatus) (out inn : Nat) :
    s.RecordsOnly (s.handOver x v st out inn) :=
  (s.applyStatus_only _ _ _ _).records.trans (State.offer_only _ _)
/-- The table is what the hand-over's status made it: the trace offer does not touch it. -/
theorem State.offer_table (s : State) (r : TraceRecord) : (s.offer r).table = s.table := by
  unfold State.offer
  split
  dsimp only
  split <;> rfl
theorem State.offerAll_table (s : State) (rs : List TraceRecord) : (s.offerAll rs).table = s.table := by
  unfold State.offerAll
  induction rs generalizing s with
  | nil => rfl
  | cons r rs ih => rw [List.foldl_cons, ih, State.offer_table]

/-! ## Properties of a host that notices and ended work keep -/

/-- Attachment, rights and ports are no business of notices and ended work. -/
theorem hostLaw_fixed {α : Type} (f : HostCtx → α) (a : α) (hn : ∀ c k subj d st, f (HostCtx.takeNotice c k subj d st) = f c)
    (he : ∀ c hit st stamp, f (HostCtx.endWork c hit st stamp) = f c) : HostLaw fun c => f c = a :=
  ⟨fun c k subj d st h => (hn c k subj d st).trans h, fun c hit st stamp h => (he c hit st stamp).trans h⟩

theorem State.HostsOnly.port {s t : State} (a : s.HostsOnly t) (g : HostId) : (t.host g).port = (s.host g).port :=
  a.keeps _ (hostLaw_fixed (·.port) _ (by simp) (by simp)) g rfl
theorem State.HostsOnly.rights {s t : State} (a : s.HostsOnly t) (g : HostId) : (t.host g).rights = (s.host g).rights :=
  a.keeps _ (hostLaw_fixed (·.rights) _ (by simp) (by simp)) g rfl
theorem State.HostsOnly.attached {s t : State} (a : s.HostsOnly t) (g : HostId) :
    (t.host g).attached = (s.host g).attached := a.keeps _ (hostLaw_fixed (·.attached) _ (by simp) (by simp)) g rfl
theorem State.HostsOnly.runningOn {s t : State} (a : s.HostsOnly t) (g : HostId) (x : LaneId) :
    (t.host g).runningOn x = (s.host g).runningOn x :=
  a.keeps _ (hostLaw_fixed (·.runningOn x) _ (by simp) (by simp)) g rfl
theorem State.TablesOnly.port {s t : State} (a : s.TablesOnly t) (g : HostId) : (t.host g).port = (s.host g).port :=
  a.keeps _ (hostLaw_fixed (·.port) _ (by simp) (by simp)) g rfl
theorem State.TablesOnly.rights {s t : State} (a : s.TablesOnly t) (g : HostId) : (t.host g).rights = (s.host g).rights :=
  a.keeps _ (hostLaw_fixed (·.rights) _ (by simp) (by simp)) g rfl
theorem State.TablesOnly.attached {s t : State} (a : s.TablesOnly t) (g : HostId) :
    (t.host g).attached = (s.host g).attached := a.keeps _ (hostLaw_fixed (·.attached) _ (by simp) (by simp)) g rfl
theorem State.TablesOnly.runningOn {s t : State} (a : s.TablesOnly t) (g : HostId) (x : LaneId) :
    (t.host g).runningOn x = (s.host g).runningOn x :=
  a.keeps _ (hostLaw_fixed (·.runningOn x) _ (by simp) (by simp)) g rfl
theorem State.RecordsOnly.port {s t : State} (a : s.RecordsOnly t) (g : HostId) : (t.host g).port = (s.host g).port :=
  a.keeps _ (hostLaw_fixed (·.port) _ (by simp) (by simp)) g rfl
theorem State.RecordsOnly.rights {s t : State} (a : s.RecordsOnly t) (g : HostId) : (t.host g).rights = (s.host g).rights :=
  a.keeps _ (hostLaw_fixed (·.rights) _ (by simp) (by simp)) g rfl
theorem State.RecordsOnly.attached {s t : State} (a : s.RecordsOnly t) (g : HostId) :
    (t.host g).attached = (s.host g).attached := a.keeps _ (hostLaw_fixed (·.attached) _ (by simp) (by simp)) g rfl

/-- Notices, ended work and table writes do not move what touches a target (R51). -/
theorem State.TablesOnly.touchedOn {s t : State} (a : s.TablesOnly t) (x : LaneId) (u : TargetId) :
    t.touchedOn x u = s.touchedOn x u := by
  simp [State.touchedOn, State.runEntries, a.rest.lane, a.runningOn]
theorem State.TablesOnly.touchedBy {s t : State} (a : s.TablesOnly t) (u : TargetId) (h : HostId) :
    t.touchedBy u h = s.touchedBy u h := by simp [State.touchedBy, a.touchedOn]
theorem State.TablesOnly.touchedByOther {s t : State} (a : s.TablesOnly t) (u : TargetId) (h : HostId) :
    t.touchedByOther u h = s.touchedByOther u h := by simp [State.touchedByOther, a.touchedOn]
theorem State.HostsOnly.touchedBy {s t : State} (a : s.HostsOnly t) (u : TargetId) (h : HostId) :
    t.touchedBy u h = s.touchedBy u h := a.tables.touchedBy u h
theorem State.HostsOnly.touchedByOther {s t : State} (a : s.HostsOnly t) (u : TargetId) (h : HostId) :
    t.touchedByOther u h = s.touchedByOther u h := a.tables.touchedByOther u h

end Sys2Proof.Machine
end

