-- ==== Sys2Proof/Laws/Runs.lean ====
section
/-! SUPPORT. What the end of a run, a recovery attempt, a lane fault and a sweep can do. -/

namespace Sys2Proof.Machine

/-! ## The end of a run -/

/-- The end of a run is the lane's transition and the host's queues, and then effects on hosts, table and trace alone. -/
theorem State.endRun_only (s : State) (x : LaneId) (r : Run) (after : Lane → Lane) (fault : State → State)
    (hf : ∀ s : State, s.HostsOnly (fault s)) :
    ((s.updLane x fun l => after { l with run := none }).updHost r.host fun c => c.endRun x r s.stamp).RecordsOnly
      (s.endRun x r after fault) :=
  (((State.applyResults_only _ r _).trans (hf _).tables).trans
    (TablesOnly.foldl _ (fun s t => s.leaseRunEnd_only r.host t) _ _)).records.trans (State.offerAll_only _ _)

theorem State.endRun_lane (s : State) (x : LaneId) (r : Run) (after : Lane → Lane) (fault : State → State)
    (hf : ∀ s : State, s.HostsOnly (fault s)) :
    (s.endRun x r after fault).lane x = after { s.lane x with run := none } := by
  rw [(s.endRun_only x r after fault hf).rest.lane]
  simp

theorem State.endRun_lane_ne (s : State) {x y : LaneId} (hy : y ≠ x) (r : Run) (after : Lane → Lane)
    (fault : State → State) (hf : ∀ s : State, s.HostsOnly (fault s)) :
    (s.endRun x r after fault).lane y = s.lane y := by
  rw [(s.endRun_only x r after fault hf).rest.lane]
  simp [State.updLane_lane_ne s _ hy]

/-- A property of hosts that notices, ended work and the end of the host's own run keep is kept by the end of a run. -/
theorem State.endRun_keeps (s : State) (x : LaneId) (r : Run) (after : Lane → Lane) (fault : State → State)
    (hf : ∀ s : State, s.HostsOnly (fault s)) (P : HostCtx → Prop) (hP : HostLaw P)
    (hr : ∀ c : HostCtx, P c → P (c.endRun x r s.stamp)) (g : HostId) (hg : P (s.host g)) :
    P ((s.endRun x r after fault).host g) := by
  refine (s.endRun_only x r after fault hf).keeps P hP g ?_
  rw [State.updHost_host]
  split
  · next e => subst e; simpa using hr _ hg
  · simpa using hg

theorem State.endAttempt_eq (s : State) (x : LaneId) (r : Run) (results : List ElemResult) (after : Lane → Lane) :
    s.endAttempt x r results after = s.endRun x { r with results := results } after id := rfl

/-- The identity touches the hosts alone. -/
theorem id_only (s : State) : s.HostsOnly (id s) := .refl s

/-- The entries that leave at the end of a run and those that stay make up the queue. -/
theorem HostCtx.running_split (c : HostCtx) (x : LaneId) :
    (c.sq.filter fun e => !decide (e.state = .running x)).length + (c.runningOn x).length = c.sq.length := by
  unfold HostCtx.runningOn
  induction c.sq with
  | nil => rfl
  | cons e es ih => by_cases he : e.state = .running x <;> simp [he] <;> omega

/-! ## Recovery -/

/-- The attempts of a recovery sequence: it ends, with success or the third failure, or goes on (R108). -/
theorem State.recoveryTry_cases (s : State) (x : LaneId) (r : Recovery) (o : RecoveryObs) :
    (RecoveryObs.succeeds o = true ∧ s.recoveryTry x r o = s.recoveryEnd x { r with attempts := r.attempts + 1 } true)
      ∨ (RecoveryObs.succeeds o = false ∧ 3 ≤ r.attempts + 1 ∧
          s.recoveryTry x r o = s.recoveryEnd x { r with attempts := r.attempts + 1 } false)
      ∨ (RecoveryObs.succeeds o = false ∧ r.attempts + 1 < 3 ∧
          s.recoveryTry x r o = s.updLane x fun l =>
            { l with recovery := some { r with attempts := r.attempts + 1, nextTick := s.expiry Config.recoveryGapMs } }) := by
  unfold State.recoveryTry
  cases ho : RecoveryObs.succeeds o
  · by_cases h3 : 3 ≤ r.attempts + 1
    · exact .inr (.inl ⟨rfl, h3, by simp [Config.recoveryAttempts, h3]⟩)
    · refine .inr (.inr ⟨rfl, by omega, ?_⟩)
      simp [Config.recoveryAttempts, h3]
  · exact .inl ⟨rfl, by simp⟩

/-- The end of a recovery sequence: the lane after its trace offer, then one of four outcomes (R109). -/
theorem State.recoveryEnd_cases (s : State) (x : LaneId) (r : Recovery) (ok : Bool) :
    ∃ u, (s.updLane x fun l => { l with recovery := none }).RecordsOnly u ∧
      s.recoveryEnd x r ok = match (s.lane x).restart, ok with
        | some k, true => u.restartSucceeds x k
        | some k, false => u.restartFails x k
        | none, true => u.updLane x fun l => if l.run.isSome then l.nextAttempt s.elapsed else l.toIdle
        | none, false => u.laneFault x := by
  have ho := s.offer_only (recoveryTraceRecord x r ok s.stamp)
  refine ⟨(s.offer (recoveryTraceRecord x r ok s.stamp)).updLane x fun l => { l with recovery := none }, ?_, ?_⟩
  · refine ⟨⟨?_, ?_, ?_, ?_, ?_, ?_, ?_⟩, fun P hP g hg => by simpa using ho.keeps P hP g (by simpa using hg)⟩ <;>
      cases x <;> simp [State.updLane, ho.rest.elapsed, ho.rest.resetAsserted, ho.rest.straps, ho.rest.loader,
        ho.rest.laneA, ho.rest.laneB, ho.rest.pending]
  · unfold State.recoveryEnd
    dsimp only
    generalize hq :
      (((s.offer (recoveryTraceRecord x r ok s.stamp)).updLane x fun l => { l with recovery := none }).lane x).restart = q
    have hl : q = (s.lane x).restart := by simp [← hq, ho.rest.lane]
    subst hl
    cases (s.lane x).restart <;> cases ok <;> rfl

/-! ## Sweeps -/

/-- A sweep that goes on visits the next member or ends (R122). -/
theorem State.sweepOn_cases (s : State) (x : LaneId) (w : Sweep) :
    (∃ t, s.nextMember x w.position = some t ∧
      s.sweepOn x w = s.updLane x fun l =>
        { l.onLines s.elapsed with
          closing := false
          sweep := some { w with position := some t, visit := some (newVisit t (s.entry t) s.elapsed) } })
    ∨ (s.nextMember x w.position = none ∧ s.sweepOn x w = s.sweepEnd x w.found) := by
  unfold State.sweepOn
  cases h : s.nextMember x w.position with
  | none => exact .inr ⟨rfl, rfl⟩
  | some t => exact .inl ⟨t, rfl, rfl⟩

/-- The next member is ONLINE, a member on the lane, above the position, and the lowest such entry (R122). -/
theorem State.nextMember_spec (s : State) (x : LaneId) (pos : Option TargetId) (t : TargetId)
    (h : s.nextMember x pos = some t) : abovePosition pos t = true ∧ (s.entry t).isMember x = true := by
  have := List.find?_some h
  simpa using this

/-- The normal end of a sweep is the lane's return to IDLE and notices (R127). -/
theorem State.sweepEnd_only (s : State) (x : LaneId) (found : Bool) :
    (s.updLane x fun l =>
      { l.toIdle with sweep := none, grantOwed := true,
                      masked := l.masked || (!found && (s.lane x).alertEnabled && (s.lane x).alertLow) }).HostsOnly
      (s.sweepEnd x found) := by
  unfold State.sweepEnd
  dsimp only
  split
  · exact State.notifyAll_only _ _ _ _ _
  · exact .refl _

end Sys2Proof.Machine
end

