-- ==== Sys2Proof/Laws/Commands.lean ====
section
/-! SUPPORT. What a port and the Command Unit can do with a frame. -/

namespace Sys2Proof.Machine

/-- Every code of the list names its command. -/
@[simp] theorem Cmd.ofCode_code (c : Cmd) : Cmd.ofCode c.code = some c := by cases c <;> decide

/-- A stored response with SDOn's zeros is the port answered. -/
theorem State.respond_answered (s : State) (h : HostId) (f : Frame) (r : Reply) :
    (s.respond h f r).sdoZeros h (f.payload.length + 5) = s.updPort h fun q => q.answered f r := by
  rw [State.respond_sdoZeros]
  rfl

/-- Everything a port can do with a frame (R180, R182): find it malformed, present a repeat, discard it, or execute it. -/
theorem State.takeFrame_cases (s : State) (h : HostId) (f : Frame) (o : LaneObs) :
    (f.wf = false ∧ s.takeFrame h f o = s.takeMalformed h f.exch (f.payload.length + 5))
      ∨ (s.takeFrame h f o = s.sdoZeros h (f.payload.length + 5))
      ∨ ((s.host h).port.slot = .pending ∧
          s.takeFrame h f o = (s.updPort h Port.discard).sdoZeros h (f.payload.length + 5))
      ∨ (s.takeFrame h f o = (s.execute h f o).sdoZeros h (f.payload.length + 5)) := by
  unfold State.takeFrame
  cases hw : f.wf
  · exact .inl ⟨rfl, by simp⟩
  refine .inr ?_
  unfold State.judgeSlot
  simp only [if_true]
  split
  · next hs =>
    split
    · exact .inr (.inr rfl)
    · exact .inr (.inl ⟨hs, rfl⟩)
  all_goals
    split
    · exact .inl rfl
    · exact .inr (.inr rfl)

/-- What executing a frame can do (R187): a check of the Command Unit refuses it, or the owning block answers at once, or an
accepted LANE_RESTART answers at its end. -/
theorem State.execute_cases (s : State) (h : HostId) (f : Frame) (o : LaneObs) :
    (∃ st, commandUnit h f s = .error st ∧ s.execute h f o = s.respond h f (plain st))
      ∨ (∃ c s' r, commandUnit h f s = .ok c ∧ runCommand h c f o s = (s', some r) ∧ s.execute h f o = s'.respond h f r)
      ∨ (∃ c s', commandUnit h f s = .ok c ∧ runCommand h c f o s = (s', none) ∧ s.execute h f o = s') := by
  unfold State.execute
  cases hc : commandUnit h f s with
  | error st => exact .inl ⟨st, rfl, rfl⟩
  | ok c =>
    cases hr : runCommand h c f o s with
    | mk s' a =>
      cases a with
      | none => exact .inr (.inr ⟨c, s', rfl, hr, by simp [hr]⟩)
      | some r => exact .inr (.inl ⟨c, s', r, rfl, hr, by simp [hr]⟩)

/-- A frame that the port hears and executes is executed. -/
theorem State.takeFrame_executes (s : State) (h : HostId) (f : Frame) (o : LaneObs) (lasted : Nat)
    (hl : s.hears h lasted = true) (he : s.executes h f = true) :
    s.onPort h lasted (fun s => s.takeFrame h f o) = (s.execute h f o).sdoZeros h (f.payload.length + 5) := by
  simp only [State.executes, Bool.and_eq_true, Bool.not_eq_true', decide_eq_false_iff_not] at he
  obtain ⟨⟨⟨_, hw⟩, hs⟩, hp⟩ := he
  rw [State.onPort_of_hearing s h lasted _ hl]
  unfold State.takeFrame State.judgeSlot
  simp only [hw, if_true]
  split
  · next e => exact absurd e hs
  all_goals simp [hp]

/-- The Command Unit hands on a command that passes its checks. -/
theorem commandUnit_accepted (s : State) (h : HostId) (c : Cmd) (x : Byte) (p : List Byte)
    (ha : s.accepts h c x p = true) : commandUnit h (commandFrameOf c x p) s = .ok c := by
  simp only [State.accepts, Bool.and_eq_true] at ha
  obtain ⟨⟨⟨_, hl⟩, hp⟩, hf⟩ := ha
  unfold commandUnit
  simp only [commandFrameOf, Cmd.ofCode_code]
  have h1 : (s.loading && !decide (c = .deviceInfo)) = false := by
    revert hl; cases s.loading <;> cases decide (c = Cmd.deviceInfo) <;> decide
  have h3 : (c.fieldless && !p.isEmpty) = false := by
    revert hf; cases c.fieldless <;> cases p.isEmpty <;> decide
  simp [h1, hp, h3]

/-- A command that is accepted has its owning block's effect, and its response is stored (R182, R187, R189). -/
theorem State.sends_accepted (s : State) (h : HostId) (c : Cmd) (x : Byte) (p : List Byte) (o : LaneObs)
    (ha : s.accepts h c x p = true) :
    s.sends h c x p o = match runCommand h c (commandFrameOf c x p) o s with
      | (s', some r) => s'.answers h c x p r
      | (s', none) => s'.sdoZeros h (p.length + 5) := by
  have he : s.executes h (commandFrameOf c x p) = true := by
    simp only [State.accepts, Bool.and_eq_true] at ha
    exact ha.1.1.1
  have hl : s.hears h 0 = true := by
    simp only [State.executes, State.listens, Bool.and_eq_true] at he
    exact he.1.1.1
  unfold State.sends
  rw [show ({ code := c.code, exch := x, payload := p } : Frame) = commandFrameOf c x p from rfl,
    State.takeFrame_executes s h _ o 0 hl he]
  unfold State.execute
  rw [commandUnit_accepted s h c x p ha]
  dsimp only
  cases runCommand h c (commandFrameOf c x p) o s with
  | mk s' a =>
    cases a with
    | none => rfl
    | some r => exact State.respond_answered s' h (commandFrameOf c x p) r

end Sys2Proof.Machine
end

