-- ==== Sys2Proof/Laws/Wires.lean ====
section
/-! SUPPORT. What the sequences that stop early can be: a beginning of the whole sequence up to the act that stops it, and then the release
of both lines. -/

namespace Sys2Proof.Machine

@[simp] theorem Reach.marks_acts (q : Reach) (acts : List LineAct) : (q.marks acts).map (·.2) = acts := by
  simp [Reach.marks, Function.comp_def]

theorem lineActs_append (a b : List WireItem) : lineActs (a ++ b) = lineActs a ++ lineActs b := by simp [lineActs]

/-- A list of acts stops at place q exactly where an act of that place can stop it. -/
theorem mem_stopsAt (stops : LineAct → Bool) (q : Reach) (acts : List (Reach × LineAct)) (cut : List LineAct) :
    cut ∈ stopsAt stops q acts ↔
      ∃ pre a post, acts = pre ++ (q, a) :: post ∧ stops a = true ∧ cut = pre.map (·.2) ++ [a] := by
  induction acts generalizing cut with
  | nil => simp [stopsAt]
  | cons h rest ih =>
    obtain ⟨r, b⟩ := h
    constructor
    · intro m
      rcases List.mem_append.1 m with m | m
      · split at m
        · rename_i c
          exact ⟨[], b, rest, by simp [c.1], c.2, by simpa using m⟩
        · simp at m
      · obtain ⟨cut', m', rfl⟩ := List.mem_map.1 m
        obtain ⟨pre, a, post, rfl, sa, rfl⟩ := (ih cut').1 m'
        exact ⟨(r, b) :: pre, a, post, rfl, sa, rfl⟩
    · rintro ⟨pre, a, post, e, sa, rfl⟩
      refine List.mem_append.2 ?_
      rcases pre with _ | ⟨p, pre⟩
      · obtain ⟨⟨rfl, rfl⟩, rfl⟩ : (r = q ∧ b = a) ∧ rest = post := by simpa using e
        exact .inl (by simp [sa])
      · obtain ⟨rfl, rfl⟩ : (r, b) = p ∧ rest = pre ++ (q, a) :: post := by simpa using e
        exact .inr (List.mem_map.2 ⟨pre.map (·.2) ++ [a], (ih _).2 ⟨pre, a, post, rfl, sa, rfl⟩, rfl⟩)

/-- A sequence that stops is a beginning of the whole. -/
theorem stopsAt_prefix {stops : LineAct → Bool} {q : Reach} {acts : List (Reach × LineAct)} {cut : List LineAct}
    (m : cut ∈ stopsAt stops q acts) : cut <+: acts.map (·.2) := by
  obtain ⟨pre, a, post, rfl, -, rfl⟩ := (mem_stopsAt ..).1 m
  exact ⟨post.map (·.2), by simp⟩

/-! ## The placed acts are the acts of the sequences -/

theorem readItems_lines (n : Nat) :
    lineActs (readItems n) = (List.range n).flatMap fun j => receivedBits ++ sentBit (decide (j + 1 = n)) := by
  rcases n with _ | n
  · rfl
  · have head : (List.range n).flatMap (fun j => receivedBits ++ sentBit (decide (j + 1 = n + 1)))
        = lineActs (List.replicate n (.readByte false)) := by
      have : ∀ j ∈ List.range n, receivedBits ++ sentBit (decide (j + 1 = n + 1)) = WireItem.lines (.readByte false) := by
        intro j hj
        have : j ≠ n := by have := List.mem_range.1 hj; omega
        simp [WireItem.lines, receivedByte, this]
      rw [List.flatMap_congr this]
      simp [lineActs, List.flatMap]
    rw [List.range_succ, List.flatMap_append, head]
    simp [readItems, lineActs, WireItem.lines, receivedByte]

theorem zipIdx_writes (k : Nat) (ws : List Byte) (i : Nat) :
    (((ws.zipIdx i).flatMap fun (b, i) => Reach.marks ⟨k, false, i, 0⟩ (sentByte b)).map (·.2)) = lineActs (ws.map .writeByte) := by
  induction ws generalizing i with
  | nil => rfl
  | cons b ws ih =>
    have := ih (i + 1)
    simp only [lineActs] at this ⊢
    simp [List.zipIdx_cons, this, WireItem.lines]

/-- The placed acts of an element are the acts of its part of the sequence (R89 to R91). -/
theorem Carried.acts_lines (c : Carried) (k : Nat) : (c.acts k).map (·.2) = lineActs c.wires := by
  have reads : ((List.range c.readLen).flatMap fun j =>
      Reach.marks ⟨k, false, c.writeData.length, j⟩ receivedBits
        ++ Reach.marks ⟨k, false, c.writeData.length, j + 1⟩ (sentBit (decide (j + 1 = c.readLen)))).map (·.2)
      = lineActs (readItems c.readLen) := by
    rw [readItems_lines, List.map_flatMap]
    simp
  have writes := zipIdx_writes k c.writeData 0
  obtain ⟨kind, a, ws, n⟩ := c
  cases kind <;> simp only [Carried.acts, Carried.wires, List.map_append, Reach.marks_acts, reads, writes] <;>
    simp [lineActs, WireItem.lines]

theorem openActs_tail (cs : List Carried) (k : Nat) :
    ((cs.zipIdx (k + 1)).flatMap fun (c, k) =>
        (if k = 0 then [] else Reach.marks ⟨k, true, 0, 0⟩ (WireItem.lines .restart)) ++ c.acts k).map (·.2)
      = cs.flatMap fun c => WireItem.lines .restart ++ lineActs c.wires := by
  induction cs generalizing k with
  | nil => rfl
  | cons c cs ih =>
    have := ih (k + 1)
    simp only [List.zipIdx_cons, List.flatMap_cons, List.map_append, Carried.acts_lines, this]
    simp

theorem intersperse_lines (c : List WireItem) (cs : List (List WireItem)) :
    lineActs (((c :: cs).intersperse [.restart]).flatten)
      = lineActs c ++ cs.flatMap fun d => WireItem.lines .restart ++ lineActs d := by
  induction cs generalizing c with
  | nil => simp
  | cons d cs ih =>
    rw [show (c :: d :: cs).intersperse [.restart] = c :: [.restart] :: (d :: cs).intersperse [.restart] from rfl]
    simp only [List.flatten_cons, lineActs_append, ih d, List.flatMap_cons]
    simp [lineActs]

/-- The placed acts of an attempt with an element are the acts of its sequence (R91). -/
theorem attemptActs_lines (c : Carried) (cs : List Carried) :
    (attemptActs (c :: cs)).map (·.2) = lineActs (attemptWires ((c :: cs).map Carried.wires)) := by
  have last : ∃ d, (c :: cs).getLast? = some d := ⟨_, List.getLast?_eq_some_getLast (by simp)⟩
  obtain ⟨d, e⟩ := last
  have tail := openActs_tail cs 0
  simp only [attemptActs, openActs, e, attemptWires, lineActs_append, List.map_append, Reach.marks_acts, List.map_cons,
    intersperse_lines, List.zipIdx_cons, List.flatMap_cons, Carried.acts_lines]
  rw [tail]
  simp [lineActs, List.flatMap_map]

/-! ## Letting go -/

/-- After letting go the engine pulls neither line. -/
theorem letGo_level (acts : List LineAct) (now : Bool × Bool) : (acts ++ letGo).foldl LineAct.level now = (true, true) := by
  simp [letGo, LineAct.level]

/-- At a loss of arbitration a beginning of the attempt has been sent, up to a moment of R98, and both lines are released. -/
theorem lostActs_spec {acts : List (Reach × LineAct)} {q : Reach} {sent : List LineAct} (m : sent ∈ lostActs acts q) :
    ∃ pre a, sent = pre ++ [a] ++ letGo ∧ LineAct.loses a = true ∧ pre ++ [a] <+: acts.map (·.2) := by
  obtain ⟨cut, mc, rfl⟩ := List.mem_map.1 m
  have p := stopsAt_prefix mc
  obtain ⟨pre, a, post, -, la, rfl⟩ := (mem_stopsAt ..).1 mc
  exact ⟨_, a, rfl, la, p⟩

/-- At a stretch timeout a beginning of the attempt has been sent, up to a clock that does not rise, and both lines are released. -/
theorem heldActs_spec {acts : List (Reach × LineAct)} {q : Reach} {sent : List LineAct} (m : sent ∈ heldActs acts q) :
    ∃ pre, sent = pre ++ [.clockHigh] ++ letGo ∧ pre ++ [.clockHigh] <+: acts.map (·.2) := by
  obtain ⟨cut, mc, rfl⟩ := List.mem_map.1 m
  have p := stopsAt_prefix mc
  obtain ⟨pre, a, post, -, la, rfl⟩ := (mem_stopsAt ..).1 mc
  obtain rfl : a = .clockHigh := by simpa using la
  exact ⟨_, rfl, p⟩

/-- The same in the STOP after a NACK: the attempt has been sent up to an answer, then a STOP up to its released clock. -/
theorem heldAfterNackActs_spec {acts : List (Reach × LineAct)} {q : Reach} {sent : List LineAct}
    (m : sent ∈ heldAfterNackActs acts q) :
    ∃ pre, sent = pre ++ [.answer] ++ stopToClock ++ letGo ∧ pre ++ [.answer] <+: acts.map (·.2) := by
  obtain ⟨cut, mc, rfl⟩ := List.mem_map.1 m
  have p := stopsAt_prefix mc
  obtain ⟨pre, a, post, -, la, rfl⟩ := (mem_stopsAt ..).1 mc
  obtain rfl : a = .answer := by simpa using la
  exact ⟨_, rfl, p⟩

end Sys2Proof.Machine
end

