-- ==== Sys2Proof/Tests/Slice0.lean ====
section
/-! SUPPORT. Tests: the well-formedness smoke test, values the manual's chapters and worked examples give, and for every
statement with hypotheses a state and operands that meet them. -/

namespace Sys2Proof.Tests
open Sys2Proof Sys2Proof.Machine

-- One theorem at a time: each waits for the kernel, and a thread for each would need more memory than the check allows.
set_option Elab.async false

/-! ## Well-formedness: an ill-formed term for each check -/

def longPayload : List Byte := List.replicate 61 0
def nineHeld : List (List Byte) := List.replicate 9 []
def observed (r : RecoveryObs) : LaneObs := { clockHigh := true, dataHigh := true, recovery := r }

theorem test_wf_frame_too_long : (Instr.commandFrame ⟨0, 0⟩ ⟨0x03, 1, longPayload⟩ quietObs).wf = false := by decide
theorem test_wf_frame_observation : (Instr.commandFrame ⟨0, 0⟩ ⟨0x03, 1, []⟩ (observed (.stopped 10 true true))).wf = false := by decide
theorem test_wf_repeat_too_long : (Instr.repeatFrame ⟨0, 0⟩ ⟨0x03, 1, longPayload⟩).wf = false := by decide
theorem test_wf_unknown_too_long : (Instr.unknownCommand ⟨0, 0⟩ ⟨0x07, 1, longPayload⟩).wf = false := by decide
theorem test_wf_submit_data_too_long :
    (Instr.submit 0 1 ⟨1, 1, 0, 0, 0, 0, 0, 0, List.replicate 51 0⟩).wf = false := by decide
theorem test_wf_status_observation : (Instr.laneStatus 0 1 0 (observed (.stopped 0 true true))).wf = false := by decide
theorem test_wf_restart_observation : (Instr.laneRestart 0 1 0 (observed (.stopped 10 true true))).wf = false := by decide
theorem test_wf_stuck_observation : (Instr.stuckLimit .A .data 0 (.stopped 0 true true)).wf = false := by decide
theorem test_wf_recovery_observation : (Instr.recoveryAttempt .A (.stopped 10 true true)).wf = false := by decide
theorem test_wf_reads_too_many : (Instr.attemptSuccess .A nineHeld).wf = false := by decide
theorem test_wf_read_data_too_long : (Instr.attemptSuccess .A [List.replicate 33 0]).wf = false := by decide
theorem test_wf_nack_place : (Instr.addressNack .A 8 (List.replicate 8 []) false false).wf = false := by decide
theorem test_wf_nack_done : (Instr.addressNack .A 1 [] false false).wf = false := by decide
theorem test_wf_write_nack_count : (Instr.writeByteNack .A 0 [] 32 false).wf = false := by decide
theorem test_wf_loss_written : (Instr.arbitrationLoss .A ⟨0, false, [], 33, []⟩).wf = false := by decide
theorem test_wf_stretch_part : (Instr.stretchTimeout .A ⟨0, false, [], 0, List.replicate 33 0⟩ 0).wf = false := by decide
theorem test_wf_alert_read_counts : (Instr.alertReadEnd .A (.stretch 2 0)).wf = false := by decide
theorem test_wf_alert_read_loss : (Instr.alertReadEnd .A (.arbLost 1 2)).wf = false := by decide
theorem test_wf_write_back_nack : (Instr.writeBackEnd .A (.dataNack 2 false)).wf = false := by decide
theorem test_wf_write_back_stretch : (Instr.writeBackEnd .A (.stretch 3 0)).wf = false := by decide
theorem test_wf_write_back_loss : (Instr.writeBackEnd .A (.arbLost 3)).wf = false := by decide
theorem test_wf_image_field_empty : (Instr.imageFieldCheck []).wf = false := by decide
theorem test_wf_image_field_long : (Instr.imageFieldCheck (List.replicate 13 0)).wf = false := by decide
theorem test_wf_image_loss : (Instr.imageArbLost 3 []).wf = false := by decide
theorem test_wf_image_stretch : (Instr.imageStretchTimeout 0 2 13).wf = false := by decide
theorem test_wf_accepts : (Instr.submit 0 1 ⟨1, 1, 0, 0, 0, 0, 0, 0, List.replicate 50 0⟩).wf = true := by decide

/-! ## Formats (12) -/

/-- R204: the read of an EMPTY slot ends with 0x2B, the CRC-8 of three zero bytes. -/
theorem test_crc8_of_three_zeros : crc8 [0, 0, 0] = 0x2B := by decide +kernel
/-- R210's parameters are those of the CRC-16 whose value over the nine ASCII digits 1 to 9 is 0x29B1. -/
theorem test_crc16_of_digits : crc16 [0x31, 0x32, 0x33, 0x34, 0x35, 0x36, 0x37, 0x38, 0x39] = 0x29B1 := by decide +kernel
/-- The descriptor of the worked example of chapter 12. -/
def example12 : RawDescriptor := ⟨0x21, 0x09, 0x02, 0x00, 0x02, 0x04, 500, 0x02, [0x05]⟩
theorem test_descriptor_bytes :
    RawDescriptor.toBytes example12 = [0x21, 0x09, 0x02, 0x00, 0x02, 0x04, 0x01, 0xF4, 0x02, 0x01, 0x05] := by decide +kernel
theorem test_descriptor_fields :
    parseDescriptor (RawDescriptor.toBytes example12) = some
      { tag := 0x21, target := 9, kind := .writeRead, mark := .solo, cls := 2, requireLease := false, noWait := false
        noRetry := true, waitLimit := 500, readLen := 2, writeData := [0x05] } := by decide +kernel
/-- The record of that example after its count byte, with a timestamp of 1. -/
theorem test_completion_bytes :
    Completion.toBytes { tag := 0x21, status := .ok, target := 9, kind := .writeRead, mark := .solo, attempts := 1, written := 1
                         readData := [0x3A, 0x80], finish := 1, pausedMark := false }
      = [0x21, 0x00, 0x09, 0x02, 0x00, 0x01, 0x01, 0x00, 0, 0, 0, 1, 0x02, 0x3A, 0x80] := by decide +kernel
/-- R194's example in R62: granted at 1006.7 ms for 300 ms, a lease expires at the tick at 1307 ms. -/
theorem test_expiry_tick : expiryTick 1006700 300 = 1307 := by decide
/-- R91, R90: a WRITE_READ element between START and STOP. -/
theorem test_write_read_wires :
    attemptWires [(Descriptor.carried
        { tag := 1, target := 9, kind := .writeRead, mark := .solo, cls := 0, requireLease := false, noWait := false
          noRetry := false, waitLimit := 0, readLen := 2, writeData := [0x05] } 0x20).wires]
      = [.start, .address 0x20 false, .writeByte 0x05, .restart, .address 0x20 true, .readByte false, .readByte true, .stop] := by
  decide

/-- R89: START pulls the data line low; STOP raises it last; a byte is nine bits, each given while the clock is low; the ninth is
sampled. The line levels a START leaves: data low, clock high. -/
theorem test_line_forms :
    WireItem.lines .start = [.bothHigh, .pull .data]
      ∧ (WireItem.lines .stop).getLast? = some .dataHigh
      ∧ (WireItem.lines (.writeByte 0x80)).take 5 = [.pull .clock, .release .data, .release .clock, .clockHigh, .dataHigh]
      ∧ (WireItem.lines (.writeByte 0x80)).filter (· = .pull .data) = List.replicate 7 (.pull .data)
      ∧ (WireItem.lines (.writeByte 0x80)).getLast? = some .answer
      ∧ ((WireItem.lines (.readByte false)).filter (· = .sample)).length = 8
      ∧ (WireItem.lines .start).foldl LineAct.level (true, true) = (false, true)
      ∧ (lineActs [.start, .address 0x20 false, .stop]).foldl LineAct.level (true, true) = (true, true) := by decide +kernel
/-- R95: a STOP after a NACK pulls and releases as any STOP does, finds the data line low, and leaves both lines released. -/
theorem test_stop_finds_data_low :
    WireItem.lines (stopAfterNack true) =
        [.pull .clock, .pull .data, .release .clock, .clockHigh, .release .data, .dataLow, .release .clock, .release .data]
      ∧ stopAfterNack false = .stop := by decide
/-- R89: the address byte of 0x20 for a read. -/
theorem test_address_byte : addressByte 0x20 true = 0x41 ∧ addressByte 0x20 false = 0x40 := by decide
/-- R197: an image of 48 entries, 584 bytes, takes 52.92 ms at 100 kHz. -/
theorem test_image_transfer_time : imageNs { adm := 0, imgen := true, imga := 0 } 584 = 52920000 := by
  decide +kernel
/-- R199: a NACK to the second offset byte is followed by a STOP. -/
theorem test_image_refused :
    imageRefusedWires { adm := 0, imgen := true, imga := 7 } .offset2
      = [.start, .address 0x57 false, .writeByte 0, .writeByte 0, .stop] := by decide

/-- R108: data freed by the fourth pulse, and data held to the end. -/
theorem test_recovery_wires :
    RecoveryObs.wires (.stopped 4 true true) = [.pulse, .pulse, .pulse, .pulse, .stopWatched]
      ∧ (RecoveryObs.wires .dataHeld).length = 9 ∧ RecoveryObs.wires .clockHeld = [] := by decide

/-! ## Small states -/

/-- The state a command leaves. -/
def after (i : Instr) (s : State) : State :=
  match exec i s with
  | .next t => t
  | .fault _ | .refused _ => s

/-- Status and payload of a host's stored response. -/
def answer (s : State) (h : HostId) : Option (Status × List Byte) :=
  match (s.host h).port.slot with
  | .ready r => some (r.status, r.payload)
  | .empty | .pending => none

def member : Settings :=
  { lane := .A, address := 0x20, access := 0b1111, subscribers := 0b0110, retryBudget := 2, retryOnNack := true, threshold := 1
    stretch := 10, sweepMember := true, alertReg := 0x10, alertClear := true }

/-- Entry 47 ONLINE on lane A. -/
def board : State := State.reset.updEntry 47 fun e => { e with state := .online, cfg := member }

def work (tag : Byte) (mark : ChainMark) (st : WorkState) : SubEntry :=
  { desc := { tag := tag, target := 47, kind := .read, mark := mark, cls := 1, requireLease := false, noWait := false
              noRetry := false, waitLimit := 5, readLen := 1, writeData := [] }
    deadline := some 5, bypass := 0, element := none, state := st }

def rawWork (tag mark : Byte) : RawDescriptor := ⟨tag, 47, 1, mark, 1, 0, 5, 1, []⟩

/-- Host 1 with this Submission Queue. -/
def queued (es : List SubEntry) (s : State) : State :=
  s.updHost 1 fun c => { c with sq := es, credits := 16 - es.length }

def theRun : Run :=
  { host := 1, policies := [⟨2, true, 10, 1⟩], speed := .k100, attempt := 1, results := [], stoppedAt := 0, start := 0
    discarded := false }

/-- Lane A carries host 1's run of these entries, with this attempt number. -/
def onLaneA (es : List SubEntry) (attempt : Nat) (s : State) : State :=
  (queued es s).updLane .A fun l => { l with mode := .running, run := some { theRun with attempt := attempt } }

/-- A SOLO read of host 1 on the wires of lane A. -/
def carrying : State := onLaneA [work 5 .solo (.running .A)] 1 board

/-- Host 1's port holds this slot and this repeat memory. -/
def slotted (slot : Slot) (memory : Option (Byte × Byte)) (s : State) : State :=
  s.updPort 1 fun q => { q with slot := slot, memory := memory }

def stored : Response := { status := .done, exch := 9, payload := [3], discarded := true }

def leased (l : LeaseState) (ws : List Waiter) (s : State) : State :=
  s.updLease 47 fun _ => { state := l, expiry := 9, waiters := ws }

def visit (stage : VisitStage) (clear : Bool) : Visit :=
  { target := 47, address := 0x20, alertReg := 0x10, alertClear := clear, stretch := 10, stage := stage, start := 0 }

/-- Lane A in a sweep that visits entry `pos`'s place with this visit. -/
def sweeping (pos : TargetId) (v : Visit) : State :=
  board.updLane .A fun l =>
    { l with mode := .sweep, alertLow := true
             sweep := some { speed := .k100, position := some pos, found := true, visit := some v } }

/-- R125: a write-back whose second byte is refused. -/
theorem test_write_back_refused :
    Visit.writeRefusedWires (visit (.writeBack 5) true) 1 false
      = [.start, .address 0x20 false, .writeByte 0x10, .writeByte 5, .stop] := by decide

/-- R98: the read of `carrying` can be lost at its START, at the 1 bits of the address byte 0x41 and, its byte complete, at the NACK or the
STOP; each time both lines are released. -/
theorem test_lost_sequences :
    (carrying.lostActs .A ⟨0, false, [], 0, []⟩).length = 3
      ∧ (carrying.lostActs .A ⟨0, false, [], 0, []⟩)[0]? = some [.bothHigh, .release .clock, .release .data]
      ∧ (carrying.lostActs .A ⟨0, false, [], 0, []⟩)[1]? = some
          ([.bothHigh, .pull .data, .pull .clock, .pull .data, .release .clock, .clockHigh, .pull .clock, .release .data,
            .release .clock, .clockHigh, .dataHigh] ++ letGo)
      ∧ (carrying.lostActs .A ⟨0, false, [], 0, [7]⟩).length = 2 := by decide +kernel
/-- R97, R92: the clock of that read can be held in its two bytes and its STOP, and in the STOP after a NACK to its address (log 35). -/
theorem test_held_sequences :
    (carrying.heldActs .A ⟨0, false, [], 0, []⟩).length = 9 + 8 + 1 ∧ (carrying.heldActs .A ⟨0, false, [], 0, [7]⟩).length = 2
      ∧ (carrying.heldActs .A ⟨0, false, [], 0, []⟩)[0]? = some
          [.bothHigh, .pull .data, .pull .clock, .pull .data, .release .clock, .clockHigh, .release .clock, .release .data] := by
  decide +kernel
/-- R111, R125: the write-back of 5 can be lost at a 1 bit of that byte, 00000101, once the index is acknowledged. -/
theorem test_lost_write_back :
    ((sweeping 47 (visit (.writeBack 5) true)).lostActs .A ⟨0, false, [], 1, []⟩).length = 2
      ∧ (board.lostActs .A ⟨0, false, [], 0, []⟩) = [] := by decide +kernel

def lineLowSince (mode : LaneMode) (us : Nat) (s : State) : State :=
  s.updLane .A fun l => { l with mode := mode, dataLowFrom := some us }

def at' (us : Nat) (s : State) : State := { s with elapsed := us }

def recovering (attempts : Nat) (s : State) : State :=
  s.updLane .A fun l => { l with mode := .recovery, recovery := some { attempts := attempts, start := 0, nextTick := 1 } }

def note (k : NoticeKind) : Notice := { kind := k, subject := .target 47, detail := 1, count := 255, stamp := 0 }

def loadingAt (phase : LoadPhase) (im : Image) : State :=
  { State.reset with
    loader := { State.reset.loader with state := .loading, phase := phase, transfers := 1, image := im }
    laneA := { State.reset.laneA with mode := .load } }

def imageOf (received : List Byte) (count : Nat) (entries : List Settings) : Image :=
  { received := received, count := count, speedA := .k100, speedB := .k400, entries := entries }

def recorded (tag : Byte) : Completion := recordWithoutRun (work tag .solo .queued) .cancelled 0

/-! ## Commands: one step each, on values the rules give -/

theorem test_submit_answers_free_credits : answer (after (.submit 1 1 (rawWork 5 0)) board) 1 = some (.done, [15]) := by
  decide +kernel
/-- Chapter 12's worked example: one byte too many for the write length is BAD_FIELD with the free credits. -/
theorem test_submit_wrong_length :
    answer (after (.commandFrame ⟨2, 0⟩ ⟨0x01, 0x17, RawDescriptor.toBytes example12 ++ [0]⟩ quietObs) State.reset) 2
      = some (.badField, [16]) := by decide +kernel
theorem test_submit_undefined_entry : answer (after (.submit 2 0x17 example12) State.reset) 2 = some (.badEntry, [16]) := by
  decide +kernel
theorem test_cancel_records_cancelled :
    ((after (.cancel 1 1 5) (queued [work 5 .solo .queued] board)).host 1).cq.map (·.status) = [.cancelled] := by decide +kernel
theorem test_lease_second_host_waits :
    (answer (after (.lease 2 1 47 300 0) (leased (.held 1) [] board)) 2).map (·.1) = some .pending := by decide +kernel
theorem test_release_grants_the_waiter :
    ((after (.release 1 1 47) (leased (.held 1) [⟨2, 300⟩] board)).entry 47).lease = { state := .held 2, expiry := 300, waiters := [] } := by
  decide +kernel
theorem test_table_write_address_range :
    answer (after (.tableWriteDefine 0 1 2 ⟨0, 0x78, 15, 0, 0, 0, 0, 1, 0, 0, 0⟩) State.reset) 0 = some (.badField, []) := by
  decide +kernel
theorem test_table_write_duplicate :
    answer (after (.tableWriteDefine 0 1 2 ⟨0, 0x20, 15, 0, 0, 0, 0, 1, 0, 0, 0⟩) board) 0 = some (.duplicateAddress, []) := by
  decide +kernel
theorem test_quarantine_ends_queued_work :
    ((after (.targetControlQuarantine 0 1 47) (queued [work 5 .solo .queued] board)).host 1).cq.map (·.status)
      = [.targetQuarantined] := by decide +kernel
theorem test_choice_starts_the_run :
    (after (.dispatcherChoice .A) (queued [work 5 .solo .queued] board)).laneA.run.map (·.policies) = some [⟨2, true, 10, 1⟩] := by
  decide +kernel
theorem test_success_records_ok :
    ((after (.attemptSuccess .A [[7]]) carrying).host 1).cq.map (fun r => (r.status, r.attempts, r.readData)) = [(.ok, 1, [7])] := by
  decide +kernel
theorem test_nack_begins_the_next_attempt :
    (after (.addressNack .A 0 [] false false) carrying).laneA.run.map (·.attempt) = some 2 := by decide +kernel
/-- R57, R59, R55: a lease ENDING for the run's host finishes at the run's end, and the waiter is granted. -/
theorem test_run_end_finishes_the_lease :
    let u := after (.attemptSuccess .A [[7]]) (leased (.ending 1 .expired) [⟨2, 300⟩] carrying)
    (u.host 1).nq.map (fun n => (n.kind, n.detail)) = [(.leaseEnded, 1)] ∧ (u.host 2).nq.map (·.kind) = [.leaseGranted]
      ∧ (u.entry 47).lease = { state := .held 2, expiry := 300, waiters := [] } := by decide +kernel
/-- The budget of 2 is spent at the third attempt, and the threshold of 1 quarantines (R99, R6). -/
theorem test_last_nack_quarantines :
    ((after (.addressNack .A 0 [] false false) (onLaneA [work 5 .solo (.running .A)] 3 board)).entry 47).state = .quarantined := by
  decide +kernel
theorem test_loss_makes_the_run_wait :
    (after (.arbitrationLoss .A ⟨0, false, [], 0, []⟩) carrying).laneA.mode = .foreign := by decide +kernel
theorem test_stretch_limit_is_exceeded_not_reached :
    (after (.stretchTimeout .A ⟨0, false, [], 0, []⟩ 0) (at' 1000 carrying)).laneA.closing = false
      ∧ (after (.stretchTimeout .A ⟨0, false, [], 0, []⟩ 0) (at' 1001 carrying)).laneA.closing = true := by decide +kernel
theorem test_third_attempt_faults :
    (after (.recoveryAttempt .A .dataHeld) (at' 1000 (recovering 2 board))).laneA.mode = .faulted := by decide +kernel
theorem test_alert_byte_is_told_to_subscribers :
    ((after (.alertReadEnd .A (.ok 5)) (sweeping 47 (visit .read true))).host 2).nq.map (fun n => (n.kind, n.detail))
      = [(.alert, 5)] := by decide +kernel
theorem test_last_admin_is_refused : answer (after (.hostRights 0 1 0 6 3 3) State.reset) 0 = some (.lastAdmin, []) := by
  decide +kernel
theorem test_device_info :
    answer (after (.deviceInfo 2 1) State.reset) 2 = some (.done, [0x04, 0x16, 0x01, 2, 3, 0, 0, 0, 0, 0, 0]) := by decide +kernel
theorem test_unknown_code : answer (after (.unknownCommand ⟨3, 0⟩ ⟨0x07, 1, []⟩) State.reset) 3 = some (.unknownCommand, []) := by
  decide +kernel
theorem test_short_frame : answer (after (.malformedFrame ⟨3, 0⟩ [0x03]) State.reset) 3 = some (.frameError, []) := by decide +kernel
theorem test_bad_magic :
    (after (.imageFieldCheck [0xA6, 0x5C]) (loadingAt .transfer Image.blank)).loader.reason = some .badMagic := by decide +kernel
theorem test_image_waits_one_ms :
    (after (.imageLoadStart 0) (at' 999 (loadingAt .waitHigh Image.blank))).loader.phase = .waitHigh
      ∧ (after (.imageLoadStart 0) (at' 1000 (loadingAt .waitHigh Image.blank))).loader.phase = .transfer := by decide +kernel

/-! ## Witnesses: states and operands that meet the hypotheses of the statements -/

def pendingFall : State := { board with pending := [.alertInputFall .A, .alertInputRise .A] }
theorem witness_StepRunsFrontCommand : pendingFall.pending = .alertInputFall .A :: [.alertInputRise .A] := by decide +kernel
theorem witness_CommandsCompleteAndTimePasses : board.pending = [] ∧ board.resetAsserted = false := by decide +kernel
theorem witness_DeviceResetHoldsAndReleases :
    board.resetFalls.resetAsserted = true ∧ (Instr.resume 0 1 ≠ .deviceResetAssert) := by decide +kernel

def plainFrame : Frame := { code := 0x03, exch := 1, payload := [] }
/-- Host 1's reset line has risen at microsecond 7, and the present microsecond is 9. -/
def risen : State := at' 9 (board.updPort 1 fun q => { q with listensFrom := 7 })
theorem witness_ExecutedFramesAreAnswered :
    risen.hears 1 2 = true ∧ risen.executes 1 plainFrame = true ∧ plainFrame.code ≠ Cmd.laneRestart.code := by decide +kernel
theorem witness_malformed :
    board.hears 1 0 = true ∧ judgeFrame [] = none ∧ judgeFrame [0x03, 1, 61] = none ∧ (board.host 1).port.slot ≠ .pending := by
  decide +kernel
theorem witness_discarded :
    let s := slotted .pending none board
    s.hears 1 0 = true ∧ (∀ f ∈ judgeFrame (Frame.wire plainFrame), f.code ≠ Cmd.detach.code)
      ∧ (judgeFrame (Frame.wire plainFrame)).isSome = true ∧ (s.host 1).port.slot = .pending ∧ judgeFrame [] = none := by
  decide +kernel
theorem witness_repeated :
    let s := slotted (.ready stored) (some (1, Frame.check plainFrame)) board
    s.hears 1 0 = true ∧ plainFrame.wf = true ∧ (s.host 1).port.slot = .ready stored
      ∧ (s.host 1).port.memory = some (plainFrame.exch, Frame.check plainFrame) := by decide +kernel
theorem witness_ResponseReadsDeliverTheSlot :
    (board.hears 1 0 = true ∧ (board.host 1).port.slot = .empty)
      ∧ ((slotted .pending none board).hears 1 0 = true ∧ ((slotted .pending none board).host 1).port.slot = .pending)
      ∧ ((slotted (.ready stored) none board).hears 1 0 = true
          ∧ ((slotted (.ready stored) none board).host 1).port.slot = .ready stored) := by decide +kernel
/-- Host 1 is in a response read whose marker was taken while the slot was PENDING; its restart has ended since. -/
def reading : State :=
  (slotted .pending none board).updPort 1 fun q => q.capture.storePending 9 9 ⟨.done, [1, 0]⟩
theorem witness_read_released :
    reading.hears 1 0 = true ∧ (reading.host 1).port.captured = some [0x01, 0x00, 0x00, 0x00, 0x2B]
      ∧ board.hears 1 0 = true ∧ (board.host 1).port.captured = none := by decide +kernel
/-- R191: the marker taken before the restart's end presents the PENDING slot, and the next read the response. -/
theorem test_read_presents_its_capture :
    (reading.host 1).port.deliver 6 = { (reading.host 1).port with captured := none, sdo := [0, 0x01, 0, 0, 0, 0x2B, 0] }
      ∧ ((reading.host 1).port.capture.deliver 2).sdo = [0, 0x02, Status.done.code] := by decide +kernel
/-- R186: the fall of the host's reset line abandons the read. -/
theorem test_reset_abandons_read : ((reading.hostResetFalls 1).host 1).port.captured = none := by decide +kernel
theorem witness_ignored :
    board.hears 1 0 = true ∧ (∀ b ∈ ([] : List Byte).head?, b ≠ 0x3C ∧ b ≠ 0xC3)
      ∧ ∀ b ∈ ([0x3D, 0x3C] : List Byte).head?, b ≠ 0x3C ∧ b ≠ 0xC3 := by decide +kernel
theorem witness_begun_before :
    risen.elapsed < (risen.host 1).port.listensFrom + 3 ∧ board.elapsed < (board.host 1).port.listensFrom + 1 := by
  decide +kernel
/-- R179: bits sampled at the rises of the clock make bytes most significant first, and an incomplete byte is not counted. -/
theorem test_bits_received :
    ((SpiEvent.select :: ((msbFirst 0xC3 ++ [true]).map SpiEvent.rise)).foldl SpiBits.after SpiBits.idle).sampled
        = msbFirst 0xC3 ++ [true]
      ∧ bytesOfBits (msbFirst 0xC3 ++ msbFirst 0x01 ++ [true]) = [0xC3, 0x01]
      ∧ transferKind [0xC3] = .responseRead ∧ transferKind [] = .ignored := by decide +kernel
/-- R179, R181: in the second byte of a read of a PENDING slot, 0x01, the last bit alone is high. -/
theorem test_sdo_levels :
    [8, 14, 15].map (fun n => reading.sdoLevel 1 0 { selected := true, sampled := [], falls := n })
        = [.driven false, .driven false, .driven true]
      ∧ reading.sdoLevel 1 0 { selected := false, sampled := [], falls := 15 } = .highZ := by decide +kernel
theorem witness_sdo_driven :
    (reading.host 1).attached = true ∧ reading.resetAsserted = false ∧ (reading.host 1).port.listensFrom + 0 ≤ reading.elapsed
      ∧ (reading.host 1).port.captured = some [0x01, 0x00, 0x00, 0x00, 0x2B] ∧ (board.host 1).port.captured = none := by decide +kernel
theorem witness_held :
    Instr.port (.submit 1 1 (rawWork 5 0)) = some 1
      ∧ ((board.updHost 1 fun c => { c with attached := false }).host 1).attached = false := by decide +kernel

theorem witness_unknown_code : board.executes 1 ⟨0x00, 1, []⟩ = true ∧ Cmd.ofCode 0x00 = none := by decide +kernel
theorem witness_not_ready :
    (loadingAt .waitHigh Image.blank).executes 1 plainFrame = true ∧ Cmd.ofCode plainFrame.code = some .resume
      ∧ (loadingAt .waitHigh Image.blank).loader.state = .loading := by decide +kernel
theorem witness_no_right :
    board.executes 1 ⟨0x1A, 1, [47, 0]⟩ = true ∧ Cmd.ofCode 0x1A = some .targetControl ∧ board.loader.state ≠ .loading
      ∧ (board.host 1).rights.admin = false := by decide +kernel
theorem witness_payload_without_fields :
    board.executes 1 ⟨0x03, 1, [0]⟩ = true ∧ Cmd.ofCode 0x03 = some .resume ∧ board.loader.state ≠ .loading := by decide +kernel

def longestFrame : Frame := { code := 0x01, exch := 255, payload := List.replicate 60 0xFF }
theorem witness_FrameBytesRoundTrip : longestFrame.wf = true ∧ judgeFrame (Frame.wire longestFrame) = some longestFrame := by
  decide +kernel
def longestDescriptor : Descriptor :=
  { tag := 0xFF, target := 47, kind := .writeRead, mark := .last, cls := 3, requireLease := true, noWait := true, noRetry := true
    waitLimit := 65535, readLen := 32, writeData := List.replicate 32 0xFF }
theorem witness_DescriptorBytesRoundTrip :
    longestDescriptor.inRange = true ∧ parseDescriptor (RawDescriptor.toBytes longestDescriptor.raw) = some longestDescriptor := by
  decide +kernel
def widestSettings : Settings :=
  { lane := .B, address := 0x77, access := 15, subscribers := 15, retryBudget := 7, retryOnNack := true, threshold := 15
    stretch := 250, sweepMember := true, alertReg := 0xFF, alertClear := true }
theorem witness_SettingsBytesRoundTrip :
    widestSettings.inRange = true ∧ Settings.afterReset.inRange = true
      ∧ (RawSettings.ofBytes widestSettings.toBytes).bind RawSettings.check = some widestSettings := by decide +kernel

/-- No work names entry 47, and its lease is FREE with nobody waiting. -/
def idle47 (s : State) : Prop :=
  (∀ k, ∀ w ∈ (s.host k).sq, w.desc.target ≠ 47) ∧ (s.entry 47).lease.state = .free ∧ (s.entry 47).lease.waiters = []

/-- The hypotheses on the state that a SUBMIT of this descriptor by host 1 is accepted. -/
def takes (s : State) (raw : RawDescriptor) (d : Descriptor) : Prop :=
  s.accepts 1 .submit 1 (RawDescriptor.toBytes raw) = true ∧ parseDescriptor (RawDescriptor.toBytes raw) = some d
    ∧ (s.entry d.target).state ≠ .undefined ∧ hostIn (s.entry d.target).cfg.access 1 = true
    ∧ laneIn (s.host 1).rights.lanes (s.entry d.target).cfg.lane = true
    ∧ (s.lane (s.entry d.target).cfg.lane).mode ≠ .faulted ∧ (s.entry d.target).state ≠ .offline
    ∧ ((s.entry d.target).state = .quarantined → d.kind = .probe) ∧ (s.host 1).tagOpen d.tag = false
    ∧ (d.mark = .solo ∨ d.mark = .first → (s.host 1).chain = none)
    ∧ (d.mark = .middle ∨ d.mark = .last →
        ∃ ch ∈ (s.host 1).chain, ch.lane = (s.entry d.target).cfg.lane ∧ ch.count < 8)
    ∧ (d.requireLease = true → (s.entry d.target).lease.state.heldBy 1 = true)
    ∧ (d.noWait = true → (s.entry d.target).lease.state.heldByOther 1 = false) ∧ (s.host 1).credits ≠ 0
def submitted (tag : Byte) (m : ChainMark) : Descriptor := (work tag m .queued).desc
def chained (count : Nat) (s : State) : State :=
  s.updHost 1 fun c => { c with chain := some { count := count, lane := .A, deadline := 20 } }
theorem witness_SubmitAccepted_solo : takes board (rawWork 5 0) (submitted 5 .solo) := by unfold takes; decide +kernel
theorem witness_SubmitAccepted_first :
    takes (board.updHost 1 fun c => { c with credits := 1 }) (rawWork 5 1) (submitted 5 .first) := by unfold takes; decide +kernel
theorem witness_SubmitAccepted_middle : takes (chained 1 board) (rawWork 5 2) (submitted 5 .middle) := by
  unfold takes; decide +kernel
theorem witness_SubmitAccepted_last : takes (chained 7 board) (rawWork 5 3) (submitted 5 .last) := by unfold takes; decide +kernel

/-- Checks 2 to 13 of R32 for host 1 (true where the check refuses), written out as the statement has them. -/
def checks (s : State) (d : Descriptor) : List Bool :=
  let e := s.entry d.target
  let c := s.host 1
  let goesOn : Bool := decide (d.mark = .middle ∨ d.mark = .last)
  [ decide (e.state = .undefined),
    decide (hostIn e.cfg.access 1 = false ∨ laneIn c.rights.lanes e.cfg.lane = false),
    decide ((s.lane e.cfg.lane).mode = .faulted), decide (e.state = .offline),
    decide (e.state = .quarantined ∧ d.kind ≠ .probe),
    decide ((∃ w ∈ c.sq, w.desc.tag = d.tag) ∨ ∃ r ∈ c.cq, r.tag = d.tag),
    goesOn && c.chain.isNone || !goesOn && c.chain.isSome,
    goesOn && c.chain.any fun ch => decide (ch.lane ≠ e.cfg.lane),
    goesOn && c.chain.any fun ch => decide (8 ≤ ch.count),
    decide (d.requireLease = true ∧ e.lease.state.heldBy 1 = false),
    decide (d.noWait = true ∧ e.lease.state.heldByOther 1 = true), decide (c.credits = 0) ]
/-- The SUBMIT reaches the checks, and the one at this place is the first that refuses. -/
def refusedAt (k : Nat) (s : State) (raw : RawDescriptor) : Prop :=
  s.accepts 1 .submit 1 (RawDescriptor.toBytes raw) = true
    ∧ ((parseDescriptor (RawDescriptor.toBytes raw)).map fun d => (checks s d).findIdx (· = true)) = some k
def entryIn (st : EntryState) : State := board.updEntry 47 fun e => { e with state := st }
def rawFlags (flags : Byte) : RawDescriptor := ⟨5, 47, 1, 0, 1, flags, 5, 1, []⟩
theorem witness_refused_field :
    board.accepts 1 .submit 1 (RawDescriptor.toBytes ⟨5, 48, 1, 0, 1, 0, 5, 1, []⟩) = true
      ∧ parseDescriptor (RawDescriptor.toBytes ⟨5, 48, 1, 0, 1, 0, 5, 1, []⟩) = none := by decide +kernel
theorem witness_refused_entry : refusedAt 0 State.reset (rawWork 5 0) := by unfold refusedAt; decide +kernel
theorem witness_refused_right :
    refusedAt 1 (board.updEntry 47 fun e => { e with cfg := { e.cfg with access := 0b1101 } }) (rawWork 5 0) := by
  unfold refusedAt; decide +kernel
theorem witness_refused_lane : refusedAt 2 (board.updLane .A fun l => { l with mode := .faulted }) (rawWork 5 0) := by
  unfold refusedAt; decide +kernel
theorem witness_refused_offline : refusedAt 3 (entryIn .offline) (rawWork 5 0) := by unfold refusedAt; decide +kernel
theorem witness_refused_quarantined : refusedAt 4 (entryIn .quarantined) (rawWork 5 0) := by unfold refusedAt; decide +kernel
theorem witness_refused_tag : refusedAt 5 (queued [work 5 .solo .queued] board) (rawWork 5 0) := by
  unfold refusedAt; decide +kernel
theorem witness_refused_order : refusedAt 6 board (rawWork 5 3) ∧ refusedAt 6 (chained 1 board) (rawWork 5 0) := by
  unfold refusedAt; decide +kernel
theorem witness_refused_mismatch :
    refusedAt 7 (board.updHost 1 fun c => { c with chain := some { count := 8, lane := .B, deadline := 20 } }) (rawWork 5 3) := by
  unfold refusedAt; decide +kernel
theorem witness_refused_long : refusedAt 8 (chained 8 board) (rawWork 5 3) := by unfold refusedAt; decide +kernel
theorem witness_refused_holder : refusedAt 9 (leased (.ending 1 .expired) [] board) (rawFlags 1) := by
  unfold refusedAt; decide +kernel
theorem witness_refused_leased : refusedAt 10 (leased (.held 2) [] board) (rawFlags 2) := by unfold refusedAt; decide +kernel
theorem witness_refused_credit : refusedAt 11 (board.updHost 1 fun c => { c with credits := 0 }) (rawWork 5 0) := by
  unfold refusedAt; decide +kernel

/-- A queue of a running SOLO, a queued chain and an open chain. -/
def longQueue : List SubEntry :=
  [work 1 .solo (.running .A), work 2 .first .queued, work 3 .last .queued, work 4 .first .queued]
def chainOf23 : List SubEntry := [work 2 .first .queued, work 3 .last .queued]
theorem witness_EndedWorkMovesWhole :
    longQueue = [work 1 .solo (.running .A)] ++ chainOf23 ++ [work 4 .first .queued] ∧ wholeWork chainOf23 = true
      ∧ startsAfresh [work 4 .first .queued] = true ∧ (∀ e ∈ chainOf23, e.state = .queued)
      ∧ (chainOf23.any (·.tagged 3)) = true
      ∧ ∀ k ∈ groups [work 1 .solo (.running .A)] ++ groups [work 4 .first .queued], k.any (·.tagged 3) = false := by
  decide +kernel
def strict : HostCtx := { State.reset.host 1 with stopOnFault := true }
def faulty : Completion := { recorded 2 with status := .addrNack }
theorem witness_FaultStatusPausesHost :
    ((State.reset.host 1).stopOnFault = false) ∧ ({ theRun with discarded := true } : Run).discarded = true
      ∧ strict.stopOnFault = true ∧ strict.paused = false ∧ (∀ q ∈ [recorded 1], q.status.isFault = false)
      ∧ faulty.status.isFault = true := by decide +kernel
theorem witness_cancel_queued :
    let s := queued longQueue board
    s.accepts 1 .cancel 1 [3] = true ∧ (s.host 1).sq = [work 1 .solo (.running .A)] ++ chainOf23 ++ [work 4 .first .queued]
      ∧ wholeWork chainOf23 = true ∧ startsAfresh [work 4 .first .queued] = true ∧ (∀ e ∈ chainOf23, e.state = .queued)
      ∧ (∃ e ∈ chainOf23, e.desc.tag = 3)
      ∧ ∀ e ∈ [work 1 .solo (.running .A)] ++ [work 4 .first .queued], e.desc.tag ≠ 3 := by decide +kernel
theorem witness_cancel_open_chain :
    (queued longQueue board).accepts 1 .cancel 1 [4] = true ∧ wholeWork [work 4 .first .queued] = true
      ∧ startsAfresh [] = true ∧ isOpen [work 4 .first .queued] = true
      ∧ ∀ e ∈ [work 1 .solo (.running .A)] ++ chainOf23 ++ [], e.desc.tag ≠ 4 := by decide +kernel
theorem witness_cancel_running :
    (queued longQueue board).accepts 1 .cancel 1 [1] = true ∧ (∃ e ∈ longQueue, e.desc.tag = 1)
      ∧ ∀ e ∈ longQueue, e.desc.tag = 1 → e.state ≠ .queued := by decide +kernel
theorem witness_cancel_unknown :
    (queued longQueue board).accepts 1 .cancel 1 [9] = true ∧ ∀ e ∈ longQueue, e.desc.tag ≠ 9 := by decide +kernel
theorem witness_wait_deadline :
    let s := at' 5000 (queued longQueue board)
    s.resetAsserted = false ∧ (s.host 1).sq = [work 1 .solo (.running .A)] ++ chainOf23 ++ [work 4 .first .queued]
      ∧ wholeWork chainOf23 = true ∧ startsAfresh [work 4 .first .queued] = true ∧ (∀ e ∈ chainOf23, e.state = .queued)
      ∧ work 3 .last .queued ∈ chainOf23 ∧ (work 3 .last .queued).deadline = some 5 ∧ 5 * 1000 ≤ s.elapsed
      ∧ ∀ e ∈ [work 1 .solo (.running .A)] ++ [work 4 .first .queued], e.desc.tag ≠ 3 := by decide +kernel
theorem witness_chain_window :
    let s := at' 20000 (chained 1 (queued longQueue board))
    s.resetAsserted = false ∧ (s.host 1).chain = some { count := 1, lane := .A, deadline := 20 } ∧ 20 * 1000 ≤ s.elapsed
      ∧ (s.host 1).sq = [work 1 .solo (.running .A), work 2 .first .queued, work 3 .last .queued] ++ [work 4 .first .queued]
      ∧ wholeWork [work 4 .first .queued] = true ∧ isOpen [work 4 .first .queued] = true
      ∧ noOpenChain [work 1 .solo (.running .A), work 2 .first .queued, work 3 .last .queued] = true := by decide +kernel
theorem witness_SettingsAreStored :
    board.accepts 1 .resume 1 [] = true ∧ board.accepts 1 .hostConfig 1 [1, 0, 1, 255] = true
      ∧ board.accepts 1 .hostConfig 1 [1, 0, 1, 0] = true ∧ board.accepts 0 .laneConfig 1 [1, 1, 0] = true := by decide +kernel

def served : State :=
  board.updHost 1 fun c => { c with cq := [recorded 5, recorded 6], presentedTag := some 5, credits := 14 }
theorem witness_completions :
    board.accepts 1 .fetchCompletion 1 [] = true ∧ (board.host 1).cq = [] ∧ served.accepts 1 .fetchCompletion 1 [] = true
      ∧ (served.host 1).cq = recorded 5 :: [recorded 6] := by decide +kernel
theorem witness_retire :
    board.accepts 1 .retire 1 [5] = true ∧ (board.host 1).presentedTag = none ∧ served.accepts 1 .retire 1 [5] = true
      ∧ served.accepts 1 .retire 1 [6] = true ∧ (served.host 1).cq = recorded 5 :: [recorded 6]
      ∧ (served.host 1).presentedTag = some 5 := by decide +kernel
def told (seen : Bool) : State :=
  board.updHost 1 fun c =>
    { c with nq := [note .alert, note .restored], presentedNotice := true, overflow := true, overflowSeen := seen }
theorem witness_notices :
    board.accepts 1 .fetchNotice 1 [] = true ∧ (board.host 1).nq = [] ∧ (told true).accepts 1 .fetchNotice 1 [] = true
      ∧ ((told true).host 1).nq = note .alert :: [note .restored] ∧ board.accepts 1 .ackNotice 1 [] = true
      ∧ (board.host 1).presentedNotice = false ∧ (told true).accepts 1 .ackNotice 1 [] = true
      ∧ ((told true).host 1).overflowSeen = true ∧ ((told false).host 1).overflowSeen = false := by decide +kernel
def full (n : Nat) (shown : Bool) : HostCtx :=
  { State.reset.host 1 with nq := List.replicate n (note .alert), presentedNotice := shown }
theorem witness_NoticeDelivery_held : ({ State.reset.host 1 with attached := false } : HostCtx).attached = false := by decide +kernel
theorem witness_NoticeDelivery_joins :
    (full 12 true).attached = true ∧ (full 12 true).nq.drop 1 = [] ++ note .alert :: List.replicate 10 (note .alert)
      ∧ (note .alert).kind = .alert ∧ (note .alert).subject = .target 47 := by decide +kernel
theorem witness_NoticeDelivery_appends :
    (full 11 false).attached = true ∧ (∀ m ∈ (full 11 false).nq, ¬(m.kind = .alert ∧ m.subject = .target 46))
      ∧ (full 11 false).nq.length < 12 := by decide +kernel
theorem witness_NoticeDelivery_overflows :
    (full 12 false).attached = true ∧ (∀ m ∈ (full 12 false).nq, ¬(m.kind = .alert ∧ m.subject = .target 46))
      ∧ 12 ≤ (full 12 false).nq.length := by decide +kernel

/-- Host 1's LEASE of entry 47 reaches the cases of R53. -/
def leases (s : State) (duration : BitVec 16) (noWait : Bool) : Prop :=
  s.accepts 1 .lease 1 ([byteOf 47] ++ be16 duration ++ [boolByte noWait]) = true ∧ 1 ≤ duration.toNat ∧ duration.toNat ≤ 60000
    ∧ (s.entry 47).state ≠ .undefined ∧ hostIn (s.entry 47).cfg.access 1 = true ∧ (s.entry 47).state ≠ .offline
def others : List Waiter := [⟨0, 1⟩, ⟨2, 1⟩, ⟨3, 1⟩]
theorem witness_lease_renewal :
    leases (leased (.held 1) [] board) 1 false ∧ ((leased (.held 1) [] board).entry 47).lease.state = .held 1 := by
  unfold leases; decide +kernel
theorem witness_lease_ending :
    leases (leased (.ending 1 .revoked) [] board) 60000 false
      ∧ ((leased (.ending 1 .revoked) [] board).entry 47).lease.state = .ending 1 .revoked := by unfold leases; decide +kernel
theorem witness_lease_waiting :
    leases (leased (.held 2) [⟨1, 1⟩] board) 1 true
      ∧ (∃ w ∈ ((leased (.held 2) [⟨1, 1⟩] board).entry 47).lease.waiters, w.host = 1)
      ∧ ((leased (.held 2) [⟨1, 1⟩] board).entry 47).lease.state = .held 2 := by unfold leases; decide +kernel
theorem witness_lease_granted :
    leases board 60000 false ∧ (board.entry 47).lease.state = .free ∧ (board.entry 47).lease.waiters = []
      ∧ board.touchedByOther 47 1 = false := by unfold leases; decide +kernel
theorem witness_lease_other_cases :
    leases (leased (.held 2) [] board) 1 true ∧ leases (leased .free others board) 1 false
      ∧ leases (leased (.held 2) [⟨0, 1⟩, ⟨3, 1⟩] board) 1 false := by unfold leases; decide +kernel
def outside : State := board.updEntry 47 fun e => { e with cfg := { member with access := 0b1101 } }
theorem witness_lease_refused :
    let sent (s : State) (p : List Byte) : Prop := s.accepts 1 .lease 1 p = true
    (sent board ([48] ++ be16 1 ++ [0]) ∧ 48 ≤ (48 : Byte).toNat)
      ∧ (sent board ([47] ++ be16 0 ++ [0]) ∧ sent board ([47] ++ be16 60001 ++ [0]) ∧ 60000 < (60001 : BitVec 16).toNat)
      ∧ (sent board ([47] ++ be16 1 ++ [2]) ∧ 1 < (2 : Byte).toNat)
      ∧ (sent board ([byteOf (46 : TargetId).val] ++ be16 60000 ++ [1]) ∧ (board.entry 46).state = .undefined)
      ∧ (sent outside ([47] ++ be16 1 ++ [0]) ∧ (outside.entry 47).state ≠ .undefined
        ∧ hostIn (outside.entry 47).cfg.access 1 = false)
      ∧ (sent (entryIn .offline) ([47] ++ be16 1 ++ [0]) ∧ ((entryIn .offline).entry 47).state = .offline
        ∧ hostIn ((entryIn .offline).entry 47).cfg.access 1 = true) := by decide +kernel
theorem witness_held_lease_released :
    let s := leased (.held 1) [⟨2, 300⟩] board
    (s.entry 47).lease.state = .held 1 ∧ s.accepts 1 .release 1 [byteOf 47] = true ∧ s.touchedBy 47 1 = false
      ∧ (s.entry 47).lease.waiters = ⟨2, 300⟩ :: [] := by decide +kernel
theorem witness_held_lease_revoked :
    let s := leased (.held 1) [] carrying
    (s.entry 47).lease.state = .held 1 ∧ s.accepts 0 .leaseRevoke 1 [byteOf 47] = true ∧ (s.entry 47).state ≠ .undefined
      ∧ s.touchedBy 47 1 = true := by decide +kernel
theorem witness_held_lease_expires :
    let s := at' 9000 (leased (.held 1) [] board)
    (s.entry 47).lease.state = .held 1 ∧ s.resetAsserted = false ∧ 9 * 1000 ≤ s.elapsed ∧ s.touchedBy 47 1 = false
      ∧ (s.entry 47).lease.waiters = [] := by decide +kernel
theorem witness_held_lease_left_free :
    let s := leased (.held 2) [⟨3, 300⟩] carrying
    (s.entry 47).lease.state = .held 2 ∧ s.accepts 2 .release 1 [byteOf 47] = true ∧ s.touchedBy 47 2 = false
      ∧ (s.entry 47).lease.waiters = ⟨3, 300⟩ :: [] ∧ s.touchedByOther 47 3 = true := by decide +kernel
theorem witness_free_head_withdraws :
    let s := leased .free [⟨2, 1⟩, ⟨3, 1⟩] board
    let busy := leased .free [⟨2, 1⟩, ⟨3, 1⟩] carrying
    s.accepts 2 .release 1 [byteOf 47] = true ∧ (s.entry 47).lease.state = .free
      ∧ (s.entry 47).lease.waiters = [] ++ ⟨2, 1⟩ :: [⟨3, 1⟩] ∧ s.touchedByOther 47 3 = false
      ∧ busy.accepts 2 .release 1 [byteOf 47] = true ∧ busy.touchedByOther 47 3 = true := by decide +kernel
theorem witness_release_otherwise :
    ((leased (.ending 1 .expired) [] board).accepts 1 .release 1 [byteOf 47] = true
        ∧ ((leased (.ending 1 .expired) [] board).entry 47).lease.state = .ending 1 .expired)
      ∧ (board.accepts 1 .release 1 [byteOf 47] = true ∧ (board.entry 47).lease.state.holder ≠ some 1
        ∧ ∀ w ∈ (board.entry 47).lease.waiters, w.host ≠ 1)
      ∧ ((leased (.held 2) [⟨1, 1⟩, ⟨3, 1⟩] board).accepts 1 .release 1 [byteOf 47] = true
        ∧ ((leased (.held 2) [⟨1, 1⟩, ⟨3, 1⟩] board).entry 47).lease.waiters = [] ++ ⟨1, 1⟩ :: [⟨3, 1⟩]
        ∧ ((leased (.held 2) [⟨1, 1⟩, ⟨3, 1⟩] board).entry 47).lease.state.holder ≠ some 1)
      ∧ (board.accepts 0 .leaseRevoke 1 [byteOf 47] = true ∧ (board.entry 47).state ≠ .undefined
        ∧ (board.entry 47).lease.state = .free) := by decide +kernel
/-- An index outside the table, and the index of an UNDEFINED entry, at each command that names an entry. -/
theorem witness_index_refused :
    48 ≤ (48 : Byte).toNat ∧ board.accepts 1 .release 1 [48] = true ∧ board.accepts 0 .leaseRevoke 1 [48] = true
      ∧ board.accepts 1 .tableRead 1 [48] = true ∧ (board.entry 46).state = .undefined
      ∧ board.accepts 0 .leaseRevoke 1 [byteOf (46 : TargetId).val] = true
      ∧ (∀ action ∈ ([0, 1, 2] : List Byte), board.accepts 0 .targetControl 1 [48, action] = true
        ∧ board.accepts 0 .targetControl 1 [byteOf (46 : TargetId).val, action] = true)
      ∧ board.accepts 0 .targetControl 1 [47, 3] = true ∧ 2 < (3 : Byte).toNat := by decide +kernel

theorem witness_ReportsChangeNothing :
    board.accepts 1 .tableRead 1 [byteOf 47] = true ∧ board.accepts 1 .laneStatus 1 [laneByte .B] = true
      ∧ board.accepts 1 .hostStatus 1 [byteOf 1] = true ∧ board.accepts 0 .hostStatus 1 [byteOf 3] = true
      ∧ (board.host 0).rights.admin = true ∧ board.accepts 1 .traceRead 1 (be16 255) = true
      ∧ (loadingAt .waitHigh Image.blank).accepts 1 .deviceInfo 1 [] = true := by decide +kernel
def writePayload (undefine : Bool) (c : Settings) : List Byte := [byteOf 47, boolByte undefine] ++ c.toBytes
def elsewhere : Settings := { member with address := 0x77 }
def wrong : RawSettings := ⟨0, 0x78, 15, 0, 0, 0, 0, 1, 0, 0, 0⟩
theorem witness_table_write_bad_field :
    (∀ u, board.accepts 0 .tableWrite 1 ([47, boolByte u] ++ RawSettings.toBytes wrong) = true
        ∧ board.accepts 0 .tableWrite 1 ([48, boolByte u] ++ RawSettings.toBytes wrong) = true)
      ∧ RawSettings.check wrong = none := by decide +kernel
theorem witness_table_write_in_use :
    let s := leased (.held 1) [] board
    s.accepts 0 .tableWrite 1 (writePayload false elsewhere) = true ∧ elsewhere.inRange = true
      ∧ (s.entry 47).state ≠ .undefined ∧ elsewhere.address ≠ (s.entry 47).cfg.address
      ∧ (s.entry 47).lease.state ≠ .free ∧ (∃ w ∈ ((queued longQueue board).host 1).sq, w.desc.target = 47)
      ∧ ((leased .free [⟨1, 1⟩] board).entry 47).lease.waiters ≠ [] := by decide +kernel
theorem witness_table_write_duplicate :
    let s := board.updEntry 0 fun e => { e with state := .offline, cfg := elsewhere }
    s.accepts 0 .tableWrite 1 (writePayload false elsewhere) = true ∧ elsewhere.inRange = true ∧ idle47 s
      ∧ (s.entry 0).state ≠ .undefined ∧ (s.entry 0).cfg.lane = elsewhere.lane
      ∧ (s.entry 0).cfg.address = elsewhere.address := by unfold idle47; decide +kernel
theorem witness_table_write_stores :
    board.accepts 0 .tableWrite 1 (writePayload true elsewhere) = true ∧ idle47 board ∧ elsewhere.inRange = true
      ∧ board.accepts 0 .tableWrite 1 (writePayload false elsewhere) = true
      ∧ ∀ u, u ≠ (47 : TargetId) → (board.entry u).state = .undefined := by unfold idle47; decide +kernel
theorem witness_queue_law : (chained 1 (queued longQueue board)).queueLaw := by
  intro h; revert h; decide +kernel
theorem witness_TargetControlSetsTheState :
    let s := chained 1 (queued longQueue board)
    (s.entry 47).state ≠ .undefined ∧ s.accepts 0 .targetControl 1 [byteOf 47, 0] = true
      ∧ s.accepts 0 .targetControl 1 [byteOf 47, 1] = true ∧ (s.entry 47).state ≠ .offline
      ∧ s.accepts 0 .targetControl 1 [byteOf 47, 2] = true ∧ (s.entry 47).state ≠ .quarantined
      ∧ ((entryIn .quarantined).entry 47).state = .quarantined := by decide +kernel
theorem witness_FaultsAreCounted :
    (board.entry 47).faults + 1 = 1 ∧ (board.entry 47).faults ≠ 1 ∧ (board.entry 47).state = .online
      ∧ ((entryIn .quarantined).entry 47).state = .quarantined := by decide +kernel

def faulted : State := board.updLane .A fun l => { l with mode := .faulted }
theorem witness_LaneRestartRecovers :
    board.accepts 0 .laneRestart 1 [laneByte .A] = true ∧ (board.lane .A).mode ≠ .faulted
      ∧ faulted.accepts 0 .laneRestart 1 [laneByte .A] = true ∧ (faulted.lane .A).mode = .faulted
      ∧ RecoveryObs.succeeds .clockHeld = false ∧ RecoveryObs.succeeds (.stopped 1 true true) = true := by decide +kernel
def restarted (live : Bool) : Restart := { caller := 0, exch := 1, check := 2, live := live }
theorem witness_RestartEnds :
    let s (n : Nat) := at' 1000 ((recovering n board).updLane .A fun l => { l with restart := some (restarted true) })
    (s 1).resetAsserted = false ∧ ((s 1).lane .A).mode = .recovery
      ∧ ((s 1).lane .A).recovery = some { attempts := 1, start := 0, nextTick := 1 }
      ∧ ((s 1).lane .A).restart = some (restarted true) ∧ 1 * 1000 ≤ (s 1).elapsed ∧ 1 + 1 < 3 ∧ 3 ≤ 2 + 1
      ∧ ((s 2).lane .A).recovery = some { attempts := 2, start := 0, nextTick := 1 }
      ∧ RecoveryObs.succeeds .dataHeld = false ∧ RecoveryObs.succeeds (.stopped 9 true true) = true := by decide +kernel
theorem witness_PinEventsOnALane :
    let s := at' 1000 (board.updLane .A fun l => { l with mode := .foreign })
    let w := at' 1000 (carrying.updLane .A fun l => { l with mode := .foreign })
    board.resetAsserted = false ∧ (board.lane .A).mode = .idle ∧ s.resetAsserted = false ∧ (s.lane .A).mode = .foreign
      ∧ (s.lane .A).run = none ∧ (w.lane .A).mode = .foreign ∧ (w.lane .A).run = some theRun
      ∧ 0 + 1000 ≤ s.elapsed ∧ (s.lane .A).lowSeen ≤ 0
      ∧ ((board.updLane .A fun l => { l with alertLow := true }).lane .A).alertLow = true := by decide +kernel
theorem witness_stuck_limit :
    let s := at' 35000 (lineLowSince .foreign 0 board)
    s.resetAsserted = false ∧ (s.lane .A).restart = none ∧ (s.lane .A).mode = .foreign ∧ expiryTick 0 35 * 1000 ≤ s.elapsed
      ∧ (s.lane .A).timedFrom .data = some 0 ∧ (s.lane .A).run = none
      ∧ (board.lane .A).mode = .idle ∧ (board.lane .A).timedFrom .data = none := by decide +kernel
theorem witness_stuck_limit_of_a_waiting_run :
    let s := at' 35000 (lineLowSince .foreign 0 carrying)
    (s.lane .A).mode = .foreign ∧ (s.lane .A).run = some theRun ∧ expiryTick 0 35 * 1000 ≤ s.elapsed := by decide +kernel
theorem witness_stuck_limit_of_a_closing_sweep :
    let s := at' 35000 (board.updLane .A fun l =>
      { l with mode := .sweep, closing := true, clockLowFrom := some 0
               sweep := some { speed := .k100, position := none, found := false, visit := none } })
    (s.lane .A).restart = none ∧ (s.lane .A).mode = .sweep ∧ (s.lane .A).closing = true
      ∧ (s.lane .A).timedFrom .clock = some 0 := by decide +kernel
theorem witness_recovery_attempt :
    let s := at' 1000 (recovering 1 board)
    s.resetAsserted = false ∧ (s.lane .A).restart = none ∧ (s.lane .A).mode = .recovery
      ∧ (s.lane .A).recovery = some { attempts := 1, start := 0, nextTick := 1 } ∧ 1 * 1000 ≤ s.elapsed
      ∧ RecoveryObs.succeeds .dataHeld = false ∧ 1 + 1 < 3 ∧ RecoveryObs.succeeds (.stopped 1 true true) = true := by
  decide +kernel
theorem witness_ThirdFailureFaultsTheLane :
    let s := at' 1000 (recovering 2 (chained 1 (queued longQueue board)))
    s.resetAsserted = false ∧ (s.lane .A).restart = none ∧ (s.lane .A).mode = .recovery
      ∧ (s.lane .A).recovery = some { attempts := 2, start := 0, nextTick := 1 } ∧ 1 * 1000 ≤ s.elapsed ∧ 3 ≤ 2 + 1
      ∧ RecoveryObs.succeeds .clockHeld = false ∧ (∀ g, (s.host g).queueFits = true) ∧ (s.lane .A).run = none
      ∧ (s.host 1).attached = true := by decide +kernel
def lostHere : ElemResult := { status := .arbLost, written := 0, reads := [] }
def waitingRun : Run := { theRun with results := [lostHere], stoppedAt := 0 }
theorem witness_third_failure_of_a_waiting_run :
    let s := at' 1000 (recovering 2 (carrying.updLane .A fun l => { l with run := some waitingRun }))
    (s.lane .A).mode = .recovery ∧ (s.lane .A).run = some waitingRun ∧ (∀ g, (s.host g).queueFits = true)
      ∧ waitingRun.results = attemptResults ((s.host 1).runningOn .A) [] 0 lostHere ∧ waitingRun.stoppedAt = 0 := by
  decide +kernel

def waiting : State := queued [work 5 .solo .queued] board
theorem witness_DispatcherGrantsTheWinner :
    waiting.resetAsserted = false ∧ (waiting.lane .A).mode = .idle ∧ waiting.loader.state ≠ .loading
      ∧ (waiting.lane .A).alertLow = false
      ∧ waiting.winner (waiting.candidates .A) = some (1, [work 5 .solo .queued]) := by decide +kernel
theorem witness_grant_owed :
    let s := waiting.updLane .A fun l => { l with alertLow := true, grantOwed := true }
    (s.lane .A).alertLow = true ∧ (s.lane .A).grantOwed = true
      ∧ s.winner (s.candidates .A) = some (1, [work 5 .solo .queued]) := by decide +kernel
def bypassed (n : Nat) : State := queued [{ work 5 .solo .queued with bypass := n }] board
theorem witness_WinnerByUrgencyClassAndOrder :
    (bypassed 8).winner ((bypassed 8).candidates .A) = some (1, [{ work 5 .solo .queued with bypass := 8 }])
      ∧ (∀ d ∈ (bypassed 8).candidates .A, itemBypass d.2 ≤ 8) ∧ (∃ d ∈ (bypassed 8).candidates .A, itemBypass d.2 = 8)
      ∧ (bypassed 7).winner ((bypassed 7).candidates .A) = some (1, [{ work 5 .solo .queued with bypass := 7 }])
      ∧ ∀ d ∈ (bypassed 7).candidates .A, itemBypass d.2 < 8 := by decide +kernel
/-- The items of R70: classes 1 and 3, and a bypass count in common. -/
theorem test_item_class_and_bypass :
    let high : SubEntry := { work 6 .last .queued with desc := { (work 6 .last .queued).desc with cls := 3 }, bypass := 4 }
    itemClass [{ work 5 .first .queued with bypass := 4 }, high] = 3
      ∧ itemBypass [{ work 5 .first .queued with bypass := 4 }, high] = 4 := by decide +kernel
/-- Host 1 has a SOLO entry on the wires, a closed chain and an open one, all for entry 47. -/
def lawful : State := chained 1 (queued longQueue board)
theorem witness_workLaw : lawful.workLaw ∧ lawful.candidate 1 .A = some chainOf23 := by
  refine ⟨⟨?_, ?_, ?_⟩, ?_⟩
  · intro h; revert h; decide +kernel
  · unfold State.loadLaw Image.distinct; decide +kernel
  · decide +kernel
  · decide +kernel
/-- Host 1's queue: an open chain is last, and the closed chain before it is eligible. -/
theorem witness_CandidatesAreEligible :
    let s := queued (chainOf23 ++ [work 4 .first .queued]) board
    startsAfresh (s.host 1).sq = true ∧ s.candidate 1 .A = some chainOf23
      ∧ (s.host 1).sq = [] ++ chainOf23 ++ [work 4 .first .queued] ∧ (s.host 1).attached = true ∧ (s.host 1).paused = false
      ∧ wholeWork chainOf23 = true ∧ startsAfresh [work 4 .first .queued] = true
      ∧ chainOf23.getLast? = some (work 3 .last .queued) ∧ (∀ e ∈ chainOf23, e.state = .queued)
      ∧ chainOf23.head? = some (work 2 .first .queued) ∧ (s.entry 47).cfg.lane = .A ∧ (s.entry 47).state = .online
      ∧ (s.entry 47).lease.state = .free := by decide +kernel
theorem witness_PendingAlertBeginsASweep :
    let s := board.updLane .A fun l => { l with alertLow := true }
    let bare := State.reset.updLane .A fun l => { l with alertLow := true, grantOwed := true }
    s.resetAsserted = false ∧ (s.lane .A).mode = .idle ∧ s.loader.state ≠ .loading ∧ (s.lane .A).alertLow = true
      ∧ (s.lane .A).alertEnabled = true ∧ (s.lane .A).masked = false ∧ (s.lane .A).grantOwed = false
      ∧ (s.entry 47).state = .online ∧ (s.entry 47).cfg.lane = .A ∧ (s.entry 47).cfg.sweepMember = true
      ∧ (bare.lane .A).alertLow = true ∧ bare.candidates .A = [] ∧ ∀ t, (bare.entry t).state ≠ .online := by decide +kernel

theorem witness_SuccessfulAttemptEndsTheRun :
    carrying.resetAsserted = false ∧ (carrying.lane .A).mode = .running ∧ (carrying.lane .A).run = some theRun
      ∧ [[7]].map List.length = ((carrying.host 1).runningOn .A).map (fun e => e.desc.readLen) := by decide +kernel
theorem witness_nack_retries :
    let es := (carrying.host 1).runningOn .A
    (carrying.lane .A).run = some theRun ∧ es[0]? = some (work 5 .solo (.running .A)) ∧ es.length = 1
      ∧ (theRun.policy 0).retryOnNack = true ∧ (work 5 .solo (.running .A)).desc.noRetry = false
      ∧ theRun.attempt < 1 + (theRun.policy 0).retryBudget ∧ (es.take 0).map (fun e => e.desc.readLen) = [] := by decide +kernel
def writing : SubEntry :=
  { work 5 .solo (.running .A) with desc := { (work 5 .solo .queued).desc with kind := .writeRead, writeData := [1, 2] } }
def carryingWrite : State := onLaneA [writing] 3 board
theorem witness_nack_ends :
    let es := (carryingWrite.host 1).runningOn .A
    (carryingWrite.lane .A).mode = .running ∧ (carryingWrite.lane .A).run = some { theRun with attempt := 3 }
      ∧ es[0]? = some writing ∧ writing.desc.kind = .writeRead ∧ 1 < writing.desc.writeData.length
      ∧ ¬(3 < 1 + (theRun.policy 0).retryBudget) := by decide +kernel
def midway : Progress := { elem := 0, opening := false, done := [], written := 2, part := [9] }
/-- R91, R98: after the last byte of a WRITE that another element follows, the engine's next act is that element's repeated START. -/
theorem test_loss_between_elements :
    let first := { writing with desc := { writing.desc with kind := .write } }
    let whole : Progress := { elem := 0, opening := false, done := [], written := 2, part := [] }
    lossFits [first, writing] first whole = false ∧ lossFits [first] first whole = true
      ∧ lossFits [first, writing] writing ⟨1, true, [[]], 0, []⟩ = true := by decide +kernel
theorem witness_LostArbitrationWaitsOrEnds :
    (carrying.lane .A).run = some theRun ∧ progressFits [work 5 .solo (.running .A)] (work 5 .solo (.running .A)) ⟨0, false, [], 0, []⟩ = true
      ∧ (∀ e ∈ (carrying.host 1).runningOn .A, e.desc.noRetry = false)
      ∧ (carryingWrite.host 1).runningOn .A = [writing] ∧ progressFits [writing] writing midway = true
      ∧ midway.part.length = writing.desc.readLen ∧ ¬(3 < 1 + (theRun.policy 0).retryBudget) := by decide +kernel
theorem witness_StretchTimeoutEndsTheRunAndCloses :
    let s := at' 1001 (carryingWrite.updLane .A fun l => { l with clockLowFrom := some 0 })
    s.resetAsserted = false ∧ (∀ k ∈ (s.lane .A).clockLowFrom, k ≤ 0) ∧ (s.lane .A).mode = .running ∧ (s.lane .A).run = some { theRun with attempt := 3 }
      ∧ progressFits [writing] writing midway = true ∧ 0 + (theRun.policy 0).stretch * 100 < s.elapsed := by decide +kernel
def closing : State := board.updLane .A fun l => { l with mode := .running, closing := true, clockLowFrom := some 0 }
theorem witness_closing_stop :
    closing.closingActs .A ≠ none ∧ closing.resetAsserted = false ∧ (closing.lane .A).mode = .running ∧ (closing.lane .A).closing = true := by decide +kernel

/-- Lane A visits entry 47 with this transfer on the wires since microsecond 0, at microsecond 1001. -/
def visiting (stage : VisitStage) : State :=
  at' 1001 ((sweeping 47 (visit stage true)).updLane .A fun l => { l with clockLowFrom := some 0 })
def openSweep (stage : VisitStage) : Sweep :=
  { speed := .k100, position := some 47, found := true, visit := some (visit stage true) }
theorem witness_AlertReadEndsOk :
    let s := visiting .read
    s.resetAsserted = false ∧ (s.lane .A).mode = .sweep ∧ (s.lane .A).closing = false
      ∧ (s.lane .A).sweep = some (openSweep .read) ∧ (openSweep .read).visit = some (visit .read true)
      ∧ (visit .read true).stage = .read ∧ (visit .read true).alertClear = true ∧ (visit .read false).alertClear = false
      ∧ hostIn (s.entry 47).cfg.subscribers 2 = true ∧ (s.host 2).attached = true := by decide +kernel
theorem witness_WriteBackEndsOk :
    let s := visiting (.writeBack 5)
    s.resetAsserted = false ∧ (s.lane .A).mode = .sweep ∧ (s.lane .A).closing = false
      ∧ (s.lane .A).sweep = some (openSweep (.writeBack 5)) ∧ (visit (.writeBack 5) true).stage = .writeBack 5 := by decide +kernel
theorem witness_FailedSweepTransfersGoOn :
    let s := (visiting .read).updLane .A fun l => { l with closing := true }
    0 + (visit .read true).stretch * 100 < (visiting .read).elapsed ∧ (∀ k ∈ ((visiting .read).lane .A).clockLowFrom, k ≤ 0)
      ∧ (visit (.writeBack 5) true).stage ≠ .read ∧ (s.lane .A).mode = .sweep ∧ (s.lane .A).closing = true
      ∧ (s.lane .A).sweep = some (openSweep .read) := by decide +kernel
/-- Both forms of the row that reports a loss in a visit: one byte out and one in of a read, two out of a write-back. -/
theorem witness_SweepAborts :
    let p : Progress := { elem := 0, opening := false, done := [], written := 1, part := [5] }
    let q : Progress := { elem := 0, opening := false, done := [], written := 2, part := [] }
    (visiting .read).resetAsserted = false ∧ ((visiting .read).lane .A).sweep = some (openSweep .read)
      ∧ p.written = 1 ∧ p.part.length = 1 ∧ q.written = 2 ∧ q.part.length = 0
      ∧ ((visiting (.writeBack 5)).lane .A).sweep = some (openSweep (.writeBack 5)) := by decide +kernel

def claimed (h : HostId) : State := { board with trace := { board.trace with claimant := some h } }
def anyTrace : RawTraceSet := ⟨2, 2, 47, 255, 15, 3, 1⟩
theorem witness_trace_claim :
    board.accepts 1 .traceClaim 1 [2] = true ∧ board.accepts 1 .traceClaim 1 [1] = true ∧ (board.host 1).rights.admin = false
      ∧ board.accepts 1 .traceClaim 1 [0] = true ∧ board.trace.claimant = none ∧ (claimed 1).accepts 0 .traceClaim 1 [1] = true
      ∧ (board.host 0).rights.admin = true ∧ (claimed 2).accepts 1 .traceClaim 1 [0] = true
      ∧ (claimed 2).trace.claimant = some 2 := by decide +kernel
theorem witness_trace_control :
    (claimed 1).trace.claimant = some 1 ∧ (claimed 1).accepts 1 .traceRelease 1 [] = true
      ∧ board.accepts 1 .traceRelease 1 [] = true ∧ (claimed 1).accepts 1 .traceControl 1 [1] = true
      ∧ (claimed 2).accepts 1 .traceControl 1 [1] = true ∧ (claimed 1).accepts 1 .traceControl 1 [2] = true
      ∧ (claimed 1).accepts 1 .traceControl 1 (0 :: RawTraceSet.toBytes anyTrace) = true
      ∧ (RawTraceSet.check anyTrace).isSome = true ∧ RawTraceSet.check { anyTrace with trigValue := 48 } = none := by
  decide +kernel
def running : Trace := { Trace.afterReset with state := .running, write := 255, wraps := 255 }
def anyRecord : TraceRecord := recoveryTraceRecord .B { attempts := 3, start := 0, nextTick := 0 } false 0
theorem witness_TraceOffersAreNumberedAndStored :
    Trace.afterReset.state = .off ∧ running.state = .running ∧ running.mode = .continuous ∧ running.passes anyRecord = true
      ∧ ({ running with lanes := 1 } : Trace).passes anyRecord = false := by decide +kernel
def triggered (m : TraceMode) (st : TraceState) (post : Byte) (left : Nat) : Trace :=
  { Trace.afterReset with mode := m, state := st, postCount := post, postLeft := left, write := 255 }
theorem witness_TraceTriggersAndStops :
    (triggered .stopAfterTrigger .running 0 0).passes anyRecord = true ∧ anyRecord.status.isFault = true
      ∧ (triggered .stopAfterTrigger .running 0 0).trigger = .anyFault ∧ (triggered .stopAfterTrigger .running 255 0).postCount ≠ 0
      ∧ (triggered .stopAfterTrigger .post 3 1).postLeft ≤ 1 ∧ 1 < (triggered .stopAfterTrigger .post 3 2).postLeft
      ∧ (triggered .startAtTrigger .armed 0 0).state = .armed ∧ (triggered .startAtTrigger .running 0 0).write = 255
      ∧ { anyRecord with status := .ok }.status.isFault = false := by decide +kernel
/-- The worked example of chapter 8, event 7: the store that brings post remaining to 0 stops the trace and tells the claimant. -/
theorem test_trace_stop_is_told :
    let s : State := { claimed 1 with trace := { (triggered .stopAfterTrigger .post 3 1) with claimant := some 1 } }
    ((s.offer anyRecord).host 1).nq.map (fun n => (n.kind, n.detail)) = [(.traceStopped, 1)]
      ∧ (s.offer anyRecord).trace.state = .stopped := by decide +kernel
theorem witness_HostRightsReplace :
    board.accepts 0 .hostRights 1 [4, 7, 3, 3] = true ∧ 4 ≤ (4 : Byte).toNat ∧ board.accepts 0 .hostRights 1 [0, 6, 3, 3] = true
      ∧ (board.host 0).rights.admin = true ∧ (∀ k, k ≠ (0 : HostId) → (board.host k).rights.admin = false)
      ∧ board.accepts 0 .hostRights 1 [3, 7, 3, 3] = true := by decide +kernel
theorem witness_TeardownsByDetachAndReset :
    carrying.accepts 1 .detach 1 [] = true ∧ (slotted .pending none carrying).listens 1 = true
      ∧ (slotted .pending none carrying).loader.state ≠ .loading
      ∧ ((slotted .pending none carrying).host 1).port.slot = .pending
      ∧ carrying.resetAsserted = false ∧ (carrying.host 1).attached = true
      ∧ ((carrying.updHost 1 fun c => { c with attached := false }).host 1).attached = false := by decide +kernel
/-- The teardown of a host whose run is in flight: one discarded running entry, and its lease goes ENDING. -/
theorem test_teardown_discards_the_run :
    let u := after (.detach 1 1) (leased (.held 1) [] carrying)
    (u.host 1).discardedRunning = 1 ∧ (u.entry 47).lease.state = .ending 1 .released := by decide +kernel

def loadingLong (phase : LoadPhase) : State := at' 35000 (loadingAt phase Image.blank)
theorem witness_image_transfers_begin :
    (loadingLong .waitHigh).resetAsserted = false ∧ (loadingLong .waitHigh).loader.phase = .waitHigh
      ∧ (loadingLong .waitFree).loader.phase = .waitFree ∧ 34000 + 1000 ≤ (loadingLong .waitHigh).elapsed
      ∧ (loadingLong .waitHigh).laneA.lowSeen ≤ 34000 := by decide +kernel
def header : List Byte := [0xA6, 0x5D, 0x01, 48, 0, 1]
def fieldsOf (c : Settings) : List Byte := c.toBytes
theorem witness_image_header :
    (loadingAt .transfer Image.blank).resetAsserted = false ∧ (loadingAt .transfer Image.blank).loader.phase = .transfer
      ∧ Image.blank.received.length = 0 ∧ (imageOf (header.take 2) 0 []).received.length = 2
      ∧ (imageOf (header.take 3) 0 []).received.length = 3 ∧ (48 : Byte).toNat ≤ 48 ∧ 48 < (49 : Byte).toNat
      ∧ (imageOf (header.take 4) 48 []).received.length = 4 ∧ (imageOf (header.take 5) 48 []).received.length = 5 := by
  decide +kernel
theorem witness_image_entry :
    let im := imageOf (header ++ (0 : Byte) :: fieldsOf member) 2 [member]
    (fieldsOf elsewhere).length = 11 ∧ 6 ≤ im.received.length ∧ im.entries.length < im.count
      ∧ (1 : Byte).toNat = im.entries.length ∧ (RawSettings.ofBytes (fieldsOf elsewhere)).bind RawSettings.check = some elsewhere
      ∧ (∀ d ∈ im.entries, ¬(d.lane = elsewhere.lane ∧ d.address = elsewhere.address))
      ∧ (RawSettings.ofBytes (fieldsOf member)).bind RawSettings.check = some member
      ∧ (∃ d ∈ im.entries, d.lane = member.lane ∧ d.address = member.address) ∧ (2 : Byte).toNat ≠ im.entries.length := by
  decide +kernel
def wholeImage : List Byte := [0xA6, 0x5D, 0x01, 1, 0, 1] ++ (0 : Byte) :: fieldsOf member
theorem witness_image_check :
    (imageOf wholeImage 1 [member]).received.length = 6 + 12 * 1 ∧ (imageOf wholeImage 1 [member]).entries.length = 1
      ∧ (be16 (crc16 wholeImage)).length = 2 := by decide +kernel
theorem witness_ImageWireFailures :
    let s := loadingLong .transfer
    let late : State := { s with loader := { s.loader with transfers := 8 } }
    s.resetAsserted = false ∧ s.loader.phase = .transfer ∧ s.loader.image.received = [] ∧ s.loader.image.reached 2 2 = true
      ∧ s.loader.image.losesAt 0 [] = true ∧ s.loader.image.next = some .magic ∧ s.loader.image.losesAt 2 [0xA6, 0x00] = true
      ∧ s.loader.transfers < 8 ∧ 8 ≤ late.loader.transfers ∧ 9999 + 25000 < s.elapsed ∧ (∀ k ∈ s.laneA.clockLowFrom, k ≤ 9999)
      ∧ expiryTick 0 35 * 1000 ≤ (loadingLong .waitFree).elapsed ∧ ∀ k ∈ (loadingLong .waitFree).laneA.dataLowFrom, k ≤ 0 := by
  decide +kernel
/-- R199: at the address of the image EEPROM, 0x50, three moments of loss before the first offset byte, the START among them. -/
theorem test_image_lost_sequences :
    ((loadingAt .transfer Image.blank).imageLostActs 0 []).length = 3
      ∧ ((loadingAt .transfer Image.blank).imageLostActs 2 [0xA6, 0x00]).length = 1
      ∧ ((loadingAt .transfer Image.blank).imageHeldActs 1 0).length = 9 := by decide +kernel
/-- R98: no loss inside the image bytes, at an acknowledged byte, or at the offset bytes; one at the STOP after a valid check. -/
theorem test_image_losses :
    Image.blank.losesAt 1 [] = false ∧ Image.blank.losesAt 2 [0xA6] = false ∧ Image.blank.losesAt 2 [0xA6, 0x5D] = false
      ∧ (imageOf [0xA6, 0x5D] 0 []).losesAt 2 [] = false
      ∧ (imageOf (wholeImage ++ be16 (crc16 wholeImage)) 1 [member]).losesAt 2 [] = true := by decide +kernel
/-- R197: an image transfer keeps 100 kHz on a lane A of another speed, and a run the speed it copied (R93): 18 bit periods of 10 µs. -/
theorem test_wire_speeds :
    let fast (s : State) := s.updLane .A fun l => { l with speed := .k400 }
    (fast (loadingAt .transfer Image.blank)).laneA.speed = .k400
      ∧ (fast (loadingAt .transfer Image.blank)).wireSpeed .A = some .k100
      ∧ (fast carrying).wireSpeed .A = some .k100 ∧ (fast carrying).wireNs .A = some 180000 := by decide +kernel
theorem witness_image_speed :
    (loadingAt .transfer Image.blank).laneA.mode = .load ∧ (loadingAt .transfer Image.blank).loader.phase = .transfer := by
  decide +kernel
theorem witness_image_applies :
    let s := loadingAt .transfer (imageOf (wholeImage ++ be16 (crc16 wholeImage)) 1 [member])
    s.resetAsserted = false ∧ s.loader.phase = .transfer ∧ s.trace.state = .off
      ∧ s.loader.image.entries.length = s.loader.image.count
      ∧ s.loader.image.received.length = 8 + 12 * s.loader.image.count := by decide +kernel

theorem witness_CreditLawIsKept : (queued longQueue board).creditLaw := by intro h; revert h; decide +kernel
theorem witness_TableLawIsKept : board.uniqueAddresses ∧ board.loadLaw := by
  unfold State.uniqueAddresses State.loadLaw Image.distinct; decide +kernel
theorem witness_EngineLawIsKept : carrying.laneLaw ∧ carrying.pendingLaw := by
  refine ⟨fun _ => by decide +kernel, fun _ h => ?_⟩
  have none_pending : ∀ h, (carrying.host h).port.slot ≠ .pending := by decide +kernel
  exact fun e => absurd e (none_pending h)
/-- Host 1 has a presented record and a presented notice before an unpresented ALERT, and three hosts wait for its lease. -/
def busy : State :=
  (leased (.held 1) others served).updHost 1 fun c => { c with nq := [note .alert, note .alert], presentedNotice := true }
theorem witness_RecordsLawIsKept : busy.recordsLaw := by
  have marks : ∀ h, ((busy.host h).presentedTag.all fun tag => decide ((busy.host h).cq.head?.map (·.tag) = some tag)) = true := by
    decide +kernel
  have lists : ∀ t, ((busy.entry t).lease.waiters.map (·.host)).Nodup
      ∧ ∀ w ∈ (busy.entry t).lease.waiters, (busy.entry t).lease.state.holder ≠ some w.host := by decide +kernel
  refine ⟨fun h => ⟨fun tag e => ?_, ?_, ?_⟩, fun t => ⟨(lists t).1, fun w hw => ⟨fun e => ?_, fun r e => ?_⟩⟩⟩
  · simpa [e] using marks h
  · revert h; decide +kernel
  · revert h; decide +kernel
  · exact (lists t).2 w hw (by simp [e, LeaseState.holder])
  · exact (lists t).2 w hw (by simp [e, LeaseState.holder])
theorem witness_AdminAndBoundsAreKept : carrying.adminLaw ∧ carrying.boundsLaw := by
  unfold State.adminLaw State.boundsLaw; decide +kernel

end Sys2Proof.Tests
end

section
/-! PROOFS. Descriptors, credits and Submission Queues (chapter 02): the checks and the acceptance of SUBMIT, the stop-on-fault
pause, and CANCEL. -/

namespace Sys2Proof.Machine

/-! ## The rows SUBMIT and CANCEL -/

/-- A SUBMIT that the Command Unit hands on has the Submission Queue's effect and stores its answer (R182, R188). -/
theorem exec_submit_accepted {s s' : State} {h : HostId} {x : Byte} {raw : RawDescriptor} {r : Reply}
    (ha : s.accepts h .submit x (RawDescriptor.toBytes raw) = true)
    (hr : submitCommand h (RawDescriptor.toBytes raw) s = (s', r)) :
    exec (.submit h x raw) s = .next (s'.answers h .submit x (RawDescriptor.toBytes raw) r) := by
  change execSubmit h x raw s = _
  rw [execSubmit, State.sends_accepted s h .submit x _ _ ha]
  simp [runCommand, answered, commandFrameOf, hr]

/-- A CANCEL that the Command Unit hands on has the Submission Queue's effect and stores its answer (R182, R188). -/
theorem exec_cancel_accepted {s s' : State} {h : HostId} {x tag : Byte} {r : Reply}
    (ha : s.accepts h .cancel x [tag] = true) (hr : cancelCommand h [tag] s = (s', r)) :
    exec (.cancel h x tag) s = .next (s'.answers h .cancel x [tag] r) := by
  change execCancel h x tag s = _
  rw [execCancel, State.sends_accepted s h .cancel x _ _ ha]
  simp [runCommand, answered, commandFrameOf, hr]

/-- Two changes that agree on the host as it is are one change. -/
theorem State.updHost_congr {s : State} {h : HostId} {f g : HostCtx → HostCtx} (e : f (s.host h) = g (s.host h)) :
    s.updHost h f = s.updHost h g := by
  simp [State.updHost, e]

/-! ## The checks of SUBMIT (R32) -/

@[simp] theorem firstRefusal_nil : firstRefusal [] = none := rfl
@[simp] theorem firstRefusal_cons (b : Bool) (st : Status) (checks : List (Bool × Status)) :
    firstRefusal ((b, st) :: checks) = if b then some st else firstRefusal checks := by
  cases b <;> rfl

theorem HostCtx.tagOpen_iff (c : HostCtx) (tag : Byte) :
    c.tagOpen tag = true ↔ (∃ w ∈ c.sq, w.desc.tag = tag) ∨ ∃ r ∈ c.cq, r.tag = tag := by
  simp [HostCtx.tagOpen]

theorem ChainMark.continues_iff (m : ChainMark) : m.continues = true ↔ m = .middle ∨ m = .last := by
  simp [ChainMark.continues]

/-- Check 8: a continuing mark needs an open chain, any other mark needs none. -/
theorem chainOrder_iff (m : ChainMark) (chain : Option OpenChain) :
    (if m.continues then chain.isNone else chain.isSome) = true
      ↔ (m = .middle ∨ m = .last) ∧ chain = none ∨ ¬(m = .middle ∨ m = .last) ∧ chain ≠ none := by
  rw [← ChainMark.continues_iff]
  cases m.continues <;> cases chain <;> simp

/-- Check 9, once check 8 has found the open chain of a continuing mark. -/
theorem laneMismatch_iff {m : ChainMark} {chain : Option OpenChain} (lane : LaneId)
    (started : ¬((m = .middle ∨ m = .last) ∧ chain = none)) :
    (m.continues && decide (chain.map (·.lane) ≠ some lane)) = true
      ↔ (m = .middle ∨ m = .last) ∧ ∃ ch, chain = some ch ∧ ch.lane ≠ lane := by
  rw [← ChainMark.continues_iff] at started ⊢
  cases chain with
  | none => simpa using started
  | some ch => simp

/-- Check 10: the open chain that a continuing mark names is full. -/
theorem chainLong_iff (m : ChainMark) (chain : Option OpenChain) :
    (m.continues && decide (Config.chainCapacity ≤ (chain.map (·.count)).getD 0)) = true
      ↔ (m = .middle ∨ m = .last) ∧ ∃ ch, chain = some ch ∧ 8 ≤ ch.count := by
  rw [← ChainMark.continues_iff, Bool.and_eq_true, decide_eq_true_iff]
  cases chain <;> simp [Config.chainCapacity]

open Classical in
/-- Checks 2 to 13 in the words of R32. -/
theorem submitRefusal_eq (h : HostId) (d : Descriptor) (s : State) :
    submitRefusal h d s =
      let e := s.entry d.target
      let c := s.host h
      let goesOn : Prop := d.mark = .middle ∨ d.mark = .last
      if e.state = .undefined then some .badEntry
      else if hostIn e.cfg.access h = false ∨ laneIn c.rights.lanes e.cfg.lane = false then some .noRight
      else if (s.lane e.cfg.lane).mode = .faulted then some .laneDown
      else if e.state = .offline then some .targetOffline
      else if e.state = .quarantined ∧ d.kind ≠ .probe then some .targetQuarantined
      else if (∃ w ∈ c.sq, w.desc.tag = d.tag) ∨ ∃ r ∈ c.cq, r.tag = d.tag then some .tagInUse
      else if goesOn ∧ c.chain = none ∨ ¬goesOn ∧ c.chain ≠ none then some .chainOrder
      else if goesOn ∧ ∃ ch, c.chain = some ch ∧ ch.lane ≠ e.cfg.lane then some .laneMismatch
      else if goesOn ∧ ∃ ch, c.chain = some ch ∧ 8 ≤ ch.count then some .chainLong
      else if d.requireLease = true ∧ e.lease.state.heldBy h = false then some .notHolder
      else if d.noWait = true ∧ e.lease.state.heldByOther h = true then some .leased
      else if c.credits = 0 then some .noCredit
      else none := by
  dsimp only
  by_cases order : (d.mark = .middle ∨ d.mark = .last) ∧ (s.host h).chain = none
      ∨ ¬(d.mark = .middle ∨ d.mark = .last) ∧ (s.host h).chain ≠ none
  · simp only [submitRefusal, firstRefusal_cons, firstRefusal_nil, chainOrder_iff, HostCtx.tagOpen_iff, if_pos order,
      decide_eq_true_eq, Bool.or_eq_true, Bool.not_eq_true']
  · have started : ¬((d.mark = .middle ∨ d.mark = .last) ∧ (s.host h).chain = none) := fun n => order (.inl n)
    simp only [submitRefusal, firstRefusal_cons, firstRefusal_nil, chainOrder_iff, HostCtx.tagOpen_iff,
      laneMismatch_iff _ started, chainLong_iff, if_neg order]
    simp only [decide_eq_true_eq, Bool.or_eq_true, Bool.and_eq_true, Bool.not_eq_true']

/-! ## What SUBMIT answers -/

theorem submitCommand_badField {h : HostId} {p : List Byte} {s : State} (hp : parseDescriptor p = none) :
    submitCommand h p s = (s, ⟨.badField, [byteOf (s.host h).credits]⟩) := by
  simp [submitCommand, hp, creditsReply]

theorem submitCommand_refused {h : HostId} {p : List Byte} {s : State} {d : Descriptor} {st : Status}
    (hp : parseDescriptor p = some d) (hr : submitRefusal h d s = some st) :
    submitCommand h p s = (s, ⟨st, [byteOf (s.host h).credits]⟩) := by
  simp [submitCommand, hp, hr, creditsReply]

theorem submitCommand_accepted {h : HostId} {p : List Byte} {s : State} {d : Descriptor}
    (hp : parseDescriptor p = some d) (hr : submitRefusal h d s = none) :
    submitCommand h p s = (s.acceptDescriptor h d, ⟨.done, [byteOf ((s.host h).credits - 1)]⟩) := by
  simp [submitCommand, hp, hr, creditsReply, State.acceptDescriptor]

/-- Settles O13: each check in turn is the first of `submitRefusal_eq` to hold. -/
theorem submitRefusedInOrder : Obligations.SubmitRefusedInOrder := by
  intro s h x raw ha refused
  refine ⟨fun bad => exec_submit_accepted ha (submitCommand_badField bad), ?_⟩
  intro d hd e c goesOn c2 c3 c4 c5 c6 c7 c8 c9 c10 c11 c12 c13
  have refuse {st : Status} (first : submitRefusal h d s = some st) : refused st :=
    exec_submit_accepted ha (submitCommand_refused hd first)
  rw [submitRefusal_eq] at refuse
  refine ⟨?_, ?_, ?_, ?_, ?_, ?_, ?_, ?_, ?_, ?_, ?_, ?_⟩
  · intro f; exact refuse (if_pos f)
  · intro n2 f; exact refuse (by rw [if_neg n2, if_pos f])
  · intro n2 n3 f; exact refuse (by rw [if_neg n2, if_neg n3, if_pos f])
  · intro n2 n3 n4 f; exact refuse (by rw [if_neg n2, if_neg n3, if_neg n4, if_pos f])
  · intro n2 n3 n4 n5 f; exact refuse (by rw [if_neg n2, if_neg n3, if_neg n4, if_neg n5, if_pos f])
  · intro n2 n3 n4 n5 n6 f
    exact refuse (by rw [if_neg n2, if_neg n3, if_neg n4, if_neg n5, if_neg n6, if_pos f])
  · intro n2 n3 n4 n5 n6 n7 f
    exact refuse (by rw [if_neg n2, if_neg n3, if_neg n4, if_neg n5, if_neg n6, if_neg n7, if_pos f])
  · intro n2 n3 n4 n5 n6 n7 n8 f
    exact refuse (by rw [if_neg n2, if_neg n3, if_neg n4, if_neg n5, if_neg n6, if_neg n7, if_neg n8, if_pos f])
  · intro n2 n3 n4 n5 n6 n7 n8 n9 f
    exact refuse (by
      rw [if_neg n2, if_neg n3, if_neg n4, if_neg n5, if_neg n6, if_neg n7, if_neg n8, if_neg n9, if_pos f])
  · intro n2 n3 n4 n5 n6 n7 n8 n9 n10 f
    exact refuse (by
      rw [if_neg n2, if_neg n3, if_neg n4, if_neg n5, if_neg n6, if_neg n7, if_neg n8, if_neg n9, if_neg n10, if_pos f])
  · intro n2 n3 n4 n5 n6 n7 n8 n9 n10 n11 f
    exact refuse (by
      rw [if_neg n2, if_neg n3, if_neg n4, if_neg n5, if_neg n6, if_neg n7, if_neg n8, if_neg n9, if_neg n10, if_neg n11,
        if_pos f])
  · intro n2 n3 n4 n5 n6 n7 n8 n9 n10 n11 n12 f
    exact refuse (by
      rw [if_neg n2, if_neg n3, if_neg n4, if_neg n5, if_neg n6, if_neg n7, if_neg n8, if_neg n9, if_neg n10, if_neg n11,
        if_neg n12, if_pos f])

/-! ## The acceptance of SUBMIT (R33) -/

/-- A descriptor that meets the conditions of R33 fails no check of R32. -/
theorem submitRefusal_none {s : State} {h : HostId} {d : Descriptor} (defined : (s.entry d.target).state ≠ .undefined)
    (access : hostIn (s.entry d.target).cfg.access h = true)
    (lane : laneIn (s.host h).rights.lanes (s.entry d.target).cfg.lane = true)
    (up : (s.lane (s.entry d.target).cfg.lane).mode ≠ .faulted) (onBus : (s.entry d.target).state ≠ .offline)
    (probe : (s.entry d.target).state = .quarantined → d.kind = .probe) (tag : (s.host h).tagOpen d.tag = false)
    (fresh : d.mark = .solo ∨ d.mark = .first → (s.host h).chain = none)
    (goesOn : d.mark = .middle ∨ d.mark = .last →
      ∃ ch, (s.host h).chain = some ch ∧ ch.lane = (s.entry d.target).cfg.lane ∧ ch.count < 8)
    (holder : d.requireLease = true → (s.entry d.target).lease.state.heldBy h = true)
    (noOther : d.noWait = true → (s.entry d.target).lease.state.heldByOther h = false)
    (credit : (s.host h).credits ≠ 0) : submitRefusal h d s = none := by
  have n7 : ¬((∃ w ∈ (s.host h).sq, w.desc.tag = d.tag) ∨ ∃ r ∈ (s.host h).cq, r.tag = d.tag) := by
    rw [← HostCtx.tagOpen_iff, tag]
    exact Bool.false_ne_true
  have fresh' : ¬(d.mark = .middle ∨ d.mark = .last) → (s.host h).chain = none := fun n => fresh (by
    revert n
    cases d.mark <;> decide)
  rw [submitRefusal_eq, if_neg defined, if_neg (by simp [access, lane]), if_neg up, if_neg onBus,
    if_neg fun n => n.2 (probe n.1), if_neg n7, if_neg, if_neg, if_neg, if_neg fun n => by simp [holder n.1] at n,
    if_neg fun n => by simp [noOther n.1] at n, if_neg credit]
  · rintro ⟨m, ch, started, long⟩
    obtain ⟨ch', started', _, short⟩ := goesOn m
    cases started.symm.trans started'
    omega
  · rintro ⟨m, ch, started, other⟩
    obtain ⟨ch', started', same, _⟩ := goesOn m
    cases started.symm.trans started'
    exact other same
  · rintro (⟨m, closed⟩ | ⟨m, started⟩)
    · obtain ⟨ch, started, _⟩ := goesOn m
      cases closed.symm.trans started
    · exact started (fresh' m)

/-- Settles O12: no check refuses the descriptor, and its acceptance is that of R33; the chain-assembly record of a host that
sends SOLO is already empty. -/
theorem submitAccepted : Obligations.SubmitAccepted := by
  intro s h x raw d ha hd defined access lane up onBus probe tag fresh goesOn holder noOther credit
  have passes := submitRefusal_none defined access lane up onBus probe tag fresh goesOn holder noOther credit
  rw [exec_submit_accepted ha (submitCommand_accepted hd passes), State.acceptDescriptor]
  congr 2
  refine State.updHost_congr ?_
  cases m : d.mark with
  | solo => simp [newEntry, chainAfter, State.expiry, m, fresh (.inl m)]
  | first | middle | last => simp [newEntry, chainAfter, State.expiry, m]

/-! ## Stop-on-fault (R46) -/

/-- The first fault-status record of a batch takes the marker. -/
theorem markFirstFault_append {pre : List Completion} {r : Completion} (post : List Completion)
    (hpre : ∀ q ∈ pre, q.status.isFault = false) (hr : r.status.isFault = true) :
    markFirstFault (pre ++ r :: post) = pre ++ { r with pausedMark := true } :: post := by
  induction pre with
  | nil => simp [markFirstFault, hr]
  | cons q qs ih =>
    simp [markFirstFault, hpre q (by simp), ih fun p hp => hpre p (by simp [hp])]

theorem HostCtx.appendRecords_of_no_pause {c : HostCtx} {recs : List Completion}
    (quiet : c.stopOnFault = false ∨ c.paused = true ∨ ∀ r ∈ recs, r.status.isFault = false) :
    c.appendRecords recs = { c with cq := c.cq ++ recs } := by
  have noPause : (c.stopOnFault && !c.paused && recs.any (·.status.isFault)) = false := by
    rcases quiet with off | paused | noFault
    · simp [off]
    · simp [paused]
    · have : recs.any (·.status.isFault) = false := by simpa using noFault
      simp [this]
  simp [HostCtx.appendRecords, noPause]

theorem HostCtx.appendRecords_of_pause {c : HostCtx} {recs : List Completion} (on : c.stopOnFault = true)
    (running : c.paused = false) (fault : ∃ r ∈ recs, r.status.isFault = true) :
    c.appendRecords recs = { c with cq := c.cq ++ markFirstFault recs, paused := true } := by
  have any : recs.any (·.status.isFault) = true := by simpa using fault
  simp [HostCtx.appendRecords, on, running, any]

/-- Settles O15, from what appending does with and without a pause. -/
theorem faultStatusPausesHost : Obligations.FaultStatusPausesHost := by
  refine ⟨fun st => by cases st <;> simp [CStatus.isFault], ?_, ?_⟩
  · intro c x r now gone
    simp [HostCtx.endRun, gone]
  · refine fun c recs => ⟨HostCtx.appendRecords_of_no_pause, ?_⟩
    rintro pre r post rfl on running hpre hr
    rw [HostCtx.appendRecords_of_pause on running ⟨r, by simp, hr⟩, markFirstFault_append post hpre hr]
    simp

/-! ## CANCEL (R41) -/

/-- The parts of a queue hold its entries and no other. -/
theorem mem_of_mem_groups {es g : List SubEntry} {e : SubEntry} (hg : g ∈ groups es) (he : e ∈ g) : e ∈ es := by
  rw [← groups_flatten es]
  exact List.mem_flatten.2 ⟨g, hg, he⟩

/-- Parts that are not hit stay (R44). -/
theorem filter_endsGroup_of_not_hit {hit : List SubEntry → Bool} {gs : List (List SubEntry)} (miss : ∀ k ∈ gs, hit k = false) :
    gs.filter (endsGroup hit) = [] ∧ (gs.filter fun g => !endsGroup hit g) = gs := by
  have stays : ∀ k ∈ gs, endsGroup hit k = false := fun k hk => by simp [endsGroup, miss k hk]
  constructor
  · simpa [List.filter_eq_nil_iff] using stays
  · simpa [List.filter_eq_self] using stays

/-- One piece of QUEUED work that alone is hit leaves its queue whole, and its records are appended together (R36, R44). -/
theorem HostCtx.endWork_whole {c : HostCtx} {hit : List SubEntry → Bool} {pre g post : List SubEntry}
    (st : SubEntry → CStatus) (stamp : Stamp) (hsq : c.sq = pre ++ g ++ post) (whole : wholeWork g = true)
    (fresh : startsAfresh post = true) (queued : ∀ e ∈ g, e.state = .queued) (hg : hit g = true)
    (miss : ∀ k ∈ groups pre ++ groups post, hit k = false) :
    c.endWork hit st stamp = HostCtx.appendRecords
      { c with sq := pre ++ post, chain := if isOpen g then none else c.chain }
      (g.map fun e => recordWithoutRun e (st e) stamp) := by
  have ends : endsGroup hit g = true := by simpa [endsGroup, hg, SubEntry.queued] using queued
  have missPre := filter_endsGroup_of_not_hit fun k hk => miss k (List.mem_append_left _ hk)
  have missPost := filter_endsGroup_of_not_hit fun k hk => miss k (List.mem_append_right _ hk)
  have ended : (groups c.sq).filter (endsGroup hit) = [g] := by
    rw [hsq, groups_split pre g post whole fresh]
    simp [missPre.1, missPost.1, ends]
  have kept : ((groups c.sq).filter fun g => !endsGroup hit g).flatten = pre ++ post := by
    rw [hsq, groups_split pre g post whole fresh]
    simp [missPre.2, missPost.2, ends, groups_flatten]
  simp [HostCtx.endWork, ended, kept]

/-- Work that ends CANCELLED pauses nobody: CANCELLED is no fault status (R46). -/
theorem HostCtx.appendRecords_cancelled (c : HostCtx) (g : List SubEntry) (stamp : Stamp) :
    c.appendRecords (g.map fun e => recordWithoutRun e .cancelled stamp)
      = { c with cq := c.cq ++ g.map fun e => recordWithoutRun e .cancelled stamp } := by
  refine HostCtx.appendRecords_of_no_pause (.inr (.inr fun r hr => ?_))
  obtain ⟨e, _, rfl⟩ := List.mem_map.1 hr
  rfl

theorem cancelCommand_queued {h : HostId} {tag : Byte} {s : State}
    (hq : ∃ e ∈ (s.host h).sq, e.state = .queued ∧ e.desc.tag = tag) :
    cancelCommand h [tag] s = (s.endWork h (fun g => g.any (·.tagged tag)) fun _ => .cancelled, ⟨.done, []⟩) := by
  simp [cancelCommand, oneByte, plain, SubEntry.queued, SubEntry.tagged, hq]

theorem cancelCommand_running {h : HostId} {tag : Byte} {s : State} (known : ∃ e ∈ (s.host h).sq, e.desc.tag = tag)
    (running : ∀ e ∈ (s.host h).sq, e.desc.tag = tag → e.state ≠ .queued) :
    cancelCommand h [tag] s = (s, ⟨.tooLate, []⟩) := by
  have notQueued : ¬∃ e ∈ (s.host h).sq, e.state = .queued ∧ e.desc.tag = tag :=
    fun ⟨e, he, hq, ht⟩ => running e he ht hq
  simp [cancelCommand, oneByte, plain, SubEntry.queued, SubEntry.tagged, notQueued, known]

theorem cancelCommand_unknown {h : HostId} {tag : Byte} {s : State} (unknown : ∀ e ∈ (s.host h).sq, e.desc.tag ≠ tag) :
    cancelCommand h [tag] s = (s, ⟨.unknownTag, []⟩) := by
  have notKnown : ¬∃ e ∈ (s.host h).sq, e.desc.tag = tag := fun ⟨e, he, ht⟩ => unknown e he ht
  have notQueued : ¬∃ e ∈ (s.host h).sq, e.state = .queued ∧ e.desc.tag = tag :=
    fun ⟨e, he, _, ht⟩ => unknown e he ht
  simp [cancelCommand, oneByte, plain, SubEntry.queued, SubEntry.tagged, notQueued, notKnown]

/-- Settles O16: only the work that carries the tag is hit. -/
theorem cancelEndsQueuedWork : Obligations.CancelEndsQueuedWork := by
  intro s h x tag ha
  refine ⟨?_, fun known running => exec_cancel_accepted ha (cancelCommand_running known running),
    fun unknown => exec_cancel_accepted ha (cancelCommand_unknown unknown)⟩
  rintro pre g post hsq whole fresh queued ⟨e, he, ht⟩ others
  have found : ∃ e ∈ (s.host h).sq, e.state = .queued ∧ e.desc.tag = tag :=
    ⟨e, by simp [hsq, he], queued e he, ht⟩
  have hit : g.any (·.tagged tag) = true := List.any_eq_true.2 ⟨e, he, by simp [SubEntry.tagged, ht]⟩
  have miss : ∀ k ∈ groups pre ++ groups post, k.any (·.tagged tag) = false := by
    intro k hk
    have inRest : ∀ w ∈ k, w ∈ pre ++ post := fun w hw =>
      List.mem_append.2 ((List.mem_append.1 hk).imp (mem_of_mem_groups · hw) (mem_of_mem_groups · hw))
    simpa [SubEntry.tagged] using fun w hw => others w (inRest w hw)
  rw [exec_cancel_accepted ha (cancelCommand_queued found), State.endWork]
  congr 2
  refine State.updHost_congr ?_
  rw [HostCtx.endWork_whole _ _ hsq whole fresh queued hit miss, HostCtx.appendRecords_cancelled]

end Sys2Proof.Machine
end

section
/-! PROOFS. Target leases (chapter 03): the touching run of another host, and what LEASE answers. -/

namespace Sys2Proof.Machine

/-! ## Touching runs (R51) -/

theorem State.mem_runEntries (s : State) (y : LaneId) (r : Run) (e : SubEntry) :
    e ∈ s.runEntries y r ↔ e ∈ (s.host r.host).sq ∧ e.state = .running y := by
  simp [State.runEntries, HostCtx.runningOn]

theorem State.touchedOn_eq_some_iff (s : State) (y : LaneId) (t : TargetId) (g : HostId) :
    s.touchedOn y t = some g ↔
      ∃ r, (s.lane y).run = some r ∧ r.host = g ∧ ∃ e ∈ (s.host r.host).sq, e.state = .running y ∧ e.desc.target = t := by
  unfold State.touchedOn
  cases (s.lane y).run with
  | none => simp
  | some r =>
    have touches : (s.runEntries y r).any (fun e => decide (e.desc.target = t)) = true ↔
        ∃ e ∈ (s.host r.host).sq, e.state = .running y ∧ e.desc.target = t := by
      simp [State.mem_runEntries, and_assoc]
    simp only [touches, Option.some.injEq, exists_eq_left', ite_eq_iff, reduceCtorEq, and_false, or_false]
    exact and_comm

theorem LaneId.exists_iff (P : LaneId → Prop) : (∃ y, P y) ↔ P .A ∨ P .B := by
  constructor
  · rintro ⟨y, p⟩
    cases y with
    | A => exact .inl p
    | B => exact .inr p
  · exact fun p => p.elim (⟨_, ·⟩) (⟨_, ·⟩)

theorem State.touchedByOther_iff_touchedOn (s : State) (t : TargetId) (h : HostId) :
    s.touchedByOther t h = true ↔ ∃ y g, s.touchedOn y t = some g ∧ g ≠ h := by
  rw [State.touchedByOther, LaneId.exists_iff, Bool.or_eq_true, Option.any_eq_true, Option.any_eq_true]
  simp

/-- A touching run of another host, by the run and the entry that names the target. -/
theorem State.touchedByOther_iff (s : State) (t : TargetId) (h : HostId) :
    s.touchedByOther t h = true ↔
      ∃ y r, (s.lane y).run = some r ∧ r.host ≠ h ∧ ∃ e ∈ (s.host r.host).sq, e.state = .running y ∧ e.desc.target = t := by
  rw [State.touchedByOther_iff_touchedOn]
  simp only [State.touchedOn_eq_some_iff]
  constructor
  · rintro ⟨y, _, ⟨r, running, rfl, named⟩, other⟩
    exact ⟨y, r, running, other, named⟩
  · rintro ⟨y, r, running, other, named⟩
    exact ⟨y, r.host, ⟨r, running, rfl, named⟩, other⟩

/-! ## The holder and the wait list (R49, R50) -/

theorem LeaseState.heldBy_iff (l : LeaseState) (h : HostId) : l.heldBy h = true ↔ l = .held h := by
  cases l <;> simp [LeaseState.heldBy]

theorem LeaseState.holder_eq_some_iff (l : LeaseState) (h : HostId) :
    l.holder = some h ↔ l = .held h ∨ ∃ r, l = .ending h r := by
  cases l <;> simp [LeaseState.holder]

theorem Lease.waits_iff (l : Lease) (h : HostId) : l.waits h = true ↔ ∃ w ∈ l.waiters, w.host = h := by
  simp [Lease.waits]

/-- Two changes that agree on the lease record as it is are one change. -/
theorem State.updLease_congr {s : State} {t : TargetId} {f g : Lease → Lease}
    (e : f (s.entry t).lease = g (s.entry t).lease) : s.updLease t f = s.updLease t g := by
  simp [State.updLease, State.updEntry, e]

/-! ## The payload of LEASE (R52, R207) -/

theorem targetOfByte_byteOf (t : TargetId) : targetOfByte (byteOf t.val) = some t := by
  have fits : (byteOf t.val).toNat = t.val := by
    simp only [byteOf, BitVec.toNat_ofNat]
    omega
  simp [targetOfByte, fits]

theorem targetOfByte_eq_none {b : Byte} (outside : 48 ≤ b.toNat) : targetOfByte b = none := by
  simp [targetOfByte, outside]

theorem boolOfByte_boolByte (b : Bool) : boolOfByte (boolByte b) = some b := by cases b <;> decide

/-- The bytes of yes and no are 0 and 1 (R205). -/
theorem exists_boolByte_of_le {b : Byte} (le : b.toNat ≤ 1) : ∃ v, b = boolByte v := by
  rcases Nat.le_one_iff_eq_zero_or_eq_one.1 le with zero | one
  · exact ⟨false, BitVec.eq_of_toNat_eq zero⟩
  · exact ⟨true, BitVec.eq_of_toNat_eq one⟩

theorem boolOfByte_eq_none {b : Byte} (above : 1 < b.toNat) : boolOfByte b = none := by
  have not0 : b ≠ 0 := by rintro rfl; simp at above
  have not1 : b ≠ 1 := by rintro rfl; simp at above
  rw [boolOfByte, if_neg not0, if_neg not1]

theorem ofBe16_be16 (w : BitVec 16) : ofBe16 (w.extractLsb' 8 8) (w.extractLsb' 0 8) = w.toNat := by
  simp only [ofBe16, BitVec.extractLsb'_toNat, Nat.shiftRight_eq_div_pow]
  omega

/-- The duration bytes are read back as the duration they carry (R203). -/
theorem parseLease_eq (index : Byte) (duration : BitVec 16) (option : Byte) :
    parseLease ([index] ++ be16 duration ++ [option]) =
      (targetOfByte index).bind fun t => (boolOfByte option).bind fun noWait =>
        if 1 ≤ duration.toNat ∧ duration.toNat ≤ 60000 then some (t, duration.toNat, noWait) else none := by
  rw [← ofBe16_be16 duration]
  cases ht : targetOfByte index with
  | none => simp [parseLease, be16, ht]
  | some t =>
    cases hb : boolOfByte option with
    | none => simp [parseLease, be16, ht, hb]
    | some noWait => simp [parseLease, be16, ht, hb]

theorem parseLease_badField {index : Byte} {duration : BitVec 16} {option : Byte}
    (bad : 48 ≤ index.toNat ∨ duration.toNat = 0 ∨ 60000 < duration.toNat ∨ 1 < option.toNat) :
    parseLease ([index] ++ be16 duration ++ [option]) = none := by
  rw [parseLease_eq]
  rcases bad with outside | zero | long | undefined
  · simp [targetOfByte_eq_none outside]
  · simp [zero]
  · simp [long]
  · simp [boolOfByte_eq_none undefined]

theorem parseLease_inRange (t : TargetId) {duration : BitVec 16} (noWait : Bool) (pos : 1 ≤ duration.toNat)
    (le : duration.toNat ≤ 60000) :
    parseLease ([byteOf t.val] ++ be16 duration ++ [boolByte noWait]) = some (t, duration.toNat, noWait) := by
  rw [parseLease_eq, targetOfByte_byteOf, boolOfByte_boolByte]
  simp [pos, le]

/-! ## The row LEASE and its checks (R52) -/

/-- A LEASE that the Command Unit hands on has the Lease Unit's effect and stores its answer (R182, R188). -/
theorem exec_lease_accepted {s s' : State} {h : HostId} {x index option : Byte} {duration : BitVec 16} {r : Reply}
    (ha : s.accepts h .lease x ([index] ++ be16 duration ++ [option]) = true)
    (hr : leaseCommand h ([index] ++ be16 duration ++ [option]) s = (s', r)) :
    exec (.lease h x index duration option) s = .next (s'.answers h .lease x ([index] ++ be16 duration ++ [option]) r) := by
  change execLease h x index duration option s = _
  rw [execLease, State.sends_accepted s h .lease x _ _ ha]
  simp only [runCommand, answered, commandFrameOf, hr]

theorem leaseCommand_badField {h : HostId} {p : List Byte} {s : State} (hp : parseLease p = none) :
    leaseCommand h p s = (s, ⟨.badField, []⟩) := by
  simp [leaseCommand, hp, plain]

/-- The checks on the entry, and the cases of R53 behind them. -/
theorem leaseCommand_eq {h : HostId} {p : List Byte} {s : State} {t : TargetId} {d : Nat} {noWait : Bool}
    (hp : parseLease p = some (t, d, noWait)) :
    leaseCommand h p s =
      if (s.entry t).state = .undefined then (s, ⟨.badEntry, []⟩)
      else if hostIn (s.entry t).cfg.access h = false then (s, ⟨.noRight, []⟩)
      else if (s.entry t).state = .offline then (s, ⟨.targetOffline, []⟩)
      else leaseDecide h t d noWait s := by
  simp [leaseCommand, hp, plain]

/-! ## The cases of R53 -/

open Classical in
/-- The cases in the words of R53: what the lease record becomes, and the answer. -/
theorem leaseDecide_eq (h : HostId) (t : TargetId) (d : Nat) (noWait : Bool) (s : State) :
    leaseDecide h t d noWait s =
      let l := (s.entry t).lease
      let held := s.updLease t fun _ => { state := .held h, expiry := expiryTick s.elapsed d, waiters := l.waiters }
      let queued := s.updLease t fun _ => { l with waiters := l.waiters ++ [{ host := h, duration := d }] }
      if l.state = .held h then (held, ⟨.done, held.leaseSummary t⟩)
      else if ∃ r, l.state = .ending h r then (s, ⟨.leaseEnding, []⟩)
      else if ∃ w ∈ l.waiters, w.host = h then (s, ⟨.alreadyWaiting, []⟩)
      else if l.state = .free ∧ l.waiters = [] ∧ s.touchedByOther t h = false then (held, ⟨.done, held.leaseSummary t⟩)
      else if noWait = true then (s, ⟨.leased, []⟩)
      else if 3 ≤ l.waiters.length then (s, ⟨.leased, []⟩)
      else (queued, ⟨.pending, queued.leaseSummary t⟩) := by
  have held : (s.updLease t fun l => { l with state := .held h, expiry := s.expiry d }) =
      s.updLease t fun _ =>
        { state := .held h, expiry := expiryTick s.elapsed d, waiters := (s.entry t).lease.waiters } :=
    State.updLease_congr rfl
  have queued : (s.updLease t fun l => { l with waiters := l.waiters ++ [{ host := h, duration := d }] }) =
      s.updLease t fun _ =>
        { (s.entry t).lease with waiters := (s.entry t).lease.waiters ++ [{ host := h, duration := d }] } :=
    State.updLease_congr rfl
  unfold leaseDecide
  simp only [held, queued, plain, LeaseState.heldBy_iff, LeaseState.holder_eq_some_iff, Lease.waits_iff,
    Config.waitListCapacity, ge_iff_le]
  by_cases holds : (s.entry t).lease.state = .held h
  · simp only [if_pos holds]
  · simp only [holds, false_or]

/-- Settles O22: the checks of R52 by `leaseCommand_eq`, and each case of R53 in turn as the first of `leaseDecide_eq` to
hold. -/
theorem leaseIsDecidedByCases : Obligations.LeaseIsDecidedByCases := by
  refine ⟨State.touchedByOther_iff, ?_, ?_⟩
  · intro s h x index duration option p refused ha
    refine ⟨fun bad => exec_lease_accepted ha (leaseCommand_badField (parseLease_badField bad)), ?_⟩
    rintro t rfl pos le opt
    obtain ⟨noWait, rfl⟩ := exists_boolByte_of_le opt
    have command := leaseCommand_eq (h := h) (s := s) (parseLease_inRange t noWait pos le)
    refine ⟨?_, ?_, ?_⟩
    · intro undefined
      exact exec_lease_accepted ha (by rw [command, if_pos undefined])
    · intro defined outside
      exact exec_lease_accepted ha (by rw [command, if_neg defined, if_pos outside])
    · intro access offline
      exact exec_lease_accepted ha (by
        rw [command, if_neg (by simp [offline]), if_neg (by simp [access]), if_pos offline])
  · intro s h x t duration noWait p l run granted refused done ha pos le defined access onBus holds ending waits free
    have command := leaseCommand_eq (h := h) (s := s) (parseLease_inRange t noWait pos le)
    rw [if_neg defined, if_neg (by simp [access]), if_neg onBus, leaseDecide_eq] at command
    dsimp only at command
    refine ⟨?_, ?_, ?_, ?_, ?_, ?_, ?_⟩
    · intro c1
      exact exec_lease_accepted ha (by rw [command, if_pos c1])
    · intro n1 c2
      exact exec_lease_accepted ha (by rw [command, if_neg n1, if_pos c2])
    · intro n1 n2 c3
      exact exec_lease_accepted ha (by rw [command, if_neg n1, if_neg n2, if_pos c3])
    · intro n1 n2 n3 c4
      exact exec_lease_accepted ha (by rw [command, if_neg n1, if_neg n2, if_neg n3, if_pos c4])
    · intro n1 n2 n3 n4 c5
      exact exec_lease_accepted ha (by rw [command, if_neg n1, if_neg n2, if_neg n3, if_neg n4, if_pos c5])
    · intro n1 n2 n3 n4 waiting c6
      exact exec_lease_accepted ha (by
        rw [command, if_neg n1, if_neg n2, if_neg n3, if_neg n4, if_neg (by simp [waiting]), if_pos c6])
    · intro n1 n2 n3 n4 waiting room
      exact exec_lease_accepted ha (by
        rw [command, if_neg n1, if_neg n2, if_neg n3, if_neg n4, if_neg (by simp [waiting]), if_neg (Nat.not_le.2 room)])

end Sys2Proof.Machine
end

section
/-! PROOFS. Lane dispatch (chapter 04): the class and the bypass count of an item, the place of a candidate in its queue, and the
arbiter's choice. -/

namespace Sys2Proof.Machine

/-! ## The highest of a list of classes -/

theorem le_foldl_max_iff {α : Type} (f : α → Nat) (l : List α) (m k : Nat) :
    k ≤ l.foldl (fun n a => max n (f a)) m ↔ k ≤ m ∨ ∃ a ∈ l, k ≤ f a := by
  induction l generalizing m with
  | nil => simp
  | cons a l ih => simp [ih, or_assoc]

theorem le_foldl_max_of_mem {α : Type} (f : α → Nat) {l : List α} {a : α} (ha : a ∈ l) :
    f a ≤ l.foldl (fun n a => max n (f a)) 0 :=
  (le_foldl_max_iff f l 0 (f a)).2 (.inr ⟨a, ha, le_rfl⟩)

theorem exists_eq_foldl_max {α : Type} (f : α → Nat) {l : List α} (hl : l ≠ []) :
    ∃ a ∈ l, f a = l.foldl (fun n a => max n (f a)) 0 := by
  rcases (le_foldl_max_iff f l 0 _).1 le_rfl with zero | ⟨a, ha, top⟩
  · obtain ⟨a, ha⟩ := List.exists_mem_of_ne_nil l hl
    exact ⟨a, ha, le_antisymm (le_foldl_max_of_mem f ha) (zero.trans (Nat.zero_le _))⟩
  · exact ⟨a, ha, le_antisymm (le_foldl_max_of_mem f ha) top⟩

/-! ## Class and bypass count of an item (R70, R79, R80) -/

theorem cls_le_itemClass {g : List SubEntry} {e : SubEntry} (he : e ∈ g) : e.desc.cls ≤ itemClass g :=
  le_foldl_max_of_mem (fun e => e.desc.cls) he

theorem exists_cls_eq_itemClass {g : List SubEntry} (hg : g ≠ []) : ∃ e ∈ g, e.desc.cls = itemClass g :=
  exists_eq_foldl_max (fun e => e.desc.cls) hg

theorem itemBypass_eq {g : List SubEntry} {count : Nat} (hg : g ≠ []) (same : ∀ e ∈ g, e.bypass = count) :
    itemBypass g = count := by
  cases g with
  | nil => exact absurd rfl hg
  | cons e es => exact same e List.mem_cons_self

theorem itemUrgent_eq_true_iff (g : List SubEntry) : itemUrgent g = true ↔ 8 ≤ itemBypass g :=
  decide_eq_true_iff

theorem itemUrgent_eq_false_iff (g : List SubEntry) : itemUrgent g = false ↔ itemBypass g < 8 :=
  decide_eq_false_iff_not.trans Nat.not_le

theorem State.effectiveClass_le_topClass (s : State) {cs : List (HostId × List SubEntry)} {d : HostId × List SubEntry}
    (hd : d ∈ cs) : s.effectiveClass d.1 d.2 ≤ s.topClass cs :=
  le_foldl_max_of_mem (fun c => s.effectiveClass c.1 c.2) hd

theorem State.exists_effectiveClass_eq_topClass (s : State) {cs : List (HostId × List SubEntry)} (hcs : cs ≠ []) :
    ∃ d ∈ cs, s.effectiveClass d.1 d.2 = s.topClass cs :=
  exists_eq_foldl_max (fun c => s.effectiveClass c.1 c.2) hcs

/-! ## A candidate is a part of its host's queue (R76) -/

theorem State.firstEligible_mem {s : State} {h : HostId} {x : LaneId} {older g : List SubEntry} {gs : List (List SubEntry)}
    (found : s.firstEligible h x older gs = some g) : g ∈ gs := by
  induction gs generalizing older with
  | nil => simp [State.firstEligible] at found
  | cons k ks ih =>
    rw [State.firstEligible] at found
    split at found
    · cases found
      exact List.mem_cons_self
    · exact List.mem_cons_of_mem _ (ih found)

theorem State.candidate_mem_groups {s : State} {h : HostId} {x : LaneId} {g : List SubEntry}
    (found : s.candidate h x = some g) : g ∈ groups (s.host h).sq :=
  State.firstEligible_mem found

/-- The elements of a candidate have one bypass count, 8 at most, in a state that keeps the law of the work (R70, R82). -/
theorem State.workLaw.bypass_of_candidate {s : State} {h : HostId} {x : LaneId} {g : List SubEntry} (law : s.workLaw)
    (found : s.candidate h x = some g) : itemBypass g ≤ 8 ∧ ∀ e ∈ g, e.bypass = itemBypass g := by
  obtain ⟨_, _, work⟩ := law
  obtain ⟨entries, parts⟩ := work h
  have part := State.candidate_mem_groups found
  have common : ∀ e ∈ g, e.bypass = itemBypass g := fun e he =>
    (itemBypass_eq (groups_ne_nil _ g part) fun i hi => ((parts g part).1 i hi e he).2).symm
  obtain ⟨e, he⟩ := List.exists_mem_of_ne_nil g (groups_ne_nil _ g part)
  exact ⟨common e he ▸ (entries e (mem_of_mem_groups part he)).2, common⟩

/-! ## The arbiter (R79 to R81) -/

/-- The arbiter takes a candidate unless there is none: one of the highest effective class is always found. -/
theorem State.winner_eq_none_iff (s : State) (cs : List (HostId × List SubEntry)) : s.winner cs = none ↔ cs = [] := by
  constructor
  · intro nothing
    by_contra hcs
    obtain ⟨d, hd, top⟩ := s.exists_effectiveClass_eq_topClass hcs
    have noTop := List.find?_eq_none.1 (Option.or_eq_none_iff.1 nothing).2 d hd
    exact noTop (decide_eq_true top)
  · rintro rfl
    rfl

/-- All the arbiter can do: it takes the first urgent candidate, or, none being urgent, the first of the highest effective class. -/
theorem State.winner_cases {s : State} {cs : List (HostId × List SubEntry)} {c : HostId × List SubEntry}
    (won : s.winner cs = some c) : ∃ pre post, cs = pre ++ c :: post
      ∧ (8 ≤ itemBypass c.2 ∧ (∀ d ∈ pre, itemBypass d.2 < 8)
        ∨ (∀ d ∈ cs, itemBypass d.2 < 8) ∧ s.effectiveClass c.1 c.2 = s.topClass cs
          ∧ ∀ d ∈ pre, s.effectiveClass d.1 d.2 ≠ s.topClass cs) := by
  rcases Option.or_eq_some_iff.1 won with urgent | ⟨noUrgent, first⟩
  · obtain ⟨hc, pre, post, split, before⟩ := List.find?_eq_some_iff_append.1 urgent
    refine ⟨pre, post, split, .inl ⟨(itemUrgent_eq_true_iff _).1 hc, fun d hd => ?_⟩⟩
    exact (itemUrgent_eq_false_iff _).1 (by simpa using before d hd)
  · obtain ⟨hc, pre, post, split, before⟩ := List.find?_eq_some_iff_append.1 first
    refine ⟨pre, post, split, .inr ⟨fun d hd => ?_, of_decide_eq_true hc, fun d hd => by simpa using before d hd⟩⟩
    exact (itemUrgent_eq_false_iff _).1 (Bool.not_eq_true _ ▸ List.find?_eq_none.1 noUrgent d hd)

theorem State.candidates_eq (s : State) (y : LaneId) : s.candidates y =
    (match (s.lane y).lastGranted with
      | none => [0, 1, 2, 3]
      | some h => [h + 1, h + 2, h + 3, h] : List HostId).filterMap fun h => (s.candidate h y).map fun g => (h, g) := rfl

/-- Settles O35, from the two ways in which the arbiter takes a candidate. -/
theorem winnerByUrgencyClassAndOrder : Obligations.WinnerByUrgencyClassAndOrder := by
  refine ⟨fun g => ⟨fun e => cls_le_itemClass, exists_cls_eq_itemClass, fun count => itemBypass_eq⟩,
    fun s h y g law => law.bypass_of_candidate,
    fun s y => ⟨s.candidates_eq y, s.winner_eq_none_iff _, fun c won => ?_⟩⟩
  obtain ⟨pre, post, split, how⟩ := State.winner_cases won
  have inPre : ∀ d ∈ pre, d ∈ s.candidates y := fun d hd => split ▸ List.mem_append_left _ hd
  have inCs : c ∈ s.candidates y := split ▸ by simp
  refine ⟨pre, post, split, ?_, ?_⟩
  · rintro ⟨u, hu, eight⟩ bounded
    rcases how with ⟨urgent, before⟩ | ⟨noUrgent, _, _⟩
    · exact ⟨le_antisymm (bounded c inCs) urgent, before⟩
    · exact absurd (noUrgent u hu) (by omega)
  · intro noUrgent
    rcases how with ⟨urgent, _⟩ | ⟨_, top, before⟩
    · exact absurd (noUrgent c inCs) (by omega)
    · have highest : ∀ d ∈ s.candidates y, s.effectiveClass d.1 d.2 ≤ s.effectiveClass c.1 c.2 := fun d hd =>
        top ▸ s.effectiveClass_le_topClass hd
      exact ⟨highest, fun d hd => lt_of_le_of_ne (highest d (inPre d hd)) fun same => before d hd (same.trans top)⟩

end Sys2Proof.Machine
end

section
/-! PROOFS. Completions, notices and attention (chapter 07): what the four commands on a host's two queues answer, and what a
Notice Queue does with a notice. -/

namespace Sys2Proof.Machine

/-! ## The rows of the two queues -/

/-- A command that its block answers at once leaves the block's state with that answer stored (R182, R188, R189). -/
theorem State.sends_answered {s s' : State} {h : HostId} {c : Cmd} {x : Byte} {p : List Byte} {o : LaneObs} {r : Reply}
    (ha : s.accepts h c x p = true) (hr : runCommand h c (commandFrameOf c x p) o s = answered (s', r)) :
    s.sends h c x p o = s'.answers h c x p r := by
  rw [State.sends_accepted s h c x p o ha, hr]
  rfl

theorem exec_fetchCompletion_accepted {s s' : State} {h : HostId} {x : Byte} {r : Reply}
    (ha : s.accepts h .fetchCompletion x [] = true) (hr : fetchCompletionCommand h s = (s', r)) :
    exec (.fetchCompletion h x) s = .next (s'.answers h .fetchCompletion x [] r) :=
  congrArg Host.Outcome.next (State.sends_answered ha (congrArg answered hr))

theorem exec_retire_accepted {s s' : State} {h : HostId} {x tag : Byte} {r : Reply}
    (ha : s.accepts h .retire x [tag] = true) (hr : retireCommand h [tag] s = (s', r)) :
    exec (.retire h x tag) s = .next (s'.answers h .retire x [tag] r) :=
  congrArg Host.Outcome.next (State.sends_answered ha (congrArg answered hr))

theorem exec_fetchNotice_accepted {s s' : State} {h : HostId} {x : Byte} {r : Reply}
    (ha : s.accepts h .fetchNotice x [] = true) (hr : fetchNoticeCommand h s = (s', r)) :
    exec (.fetchNotice h x) s = .next (s'.answers h .fetchNotice x [] r) :=
  congrArg Host.Outcome.next (State.sends_answered ha (congrArg answered hr))

theorem exec_ackNotice_accepted {s s' : State} {h : HostId} {x : Byte} {r : Reply}
    (ha : s.accepts h .ackNotice x [] = true) (hr : ackNoticeCommand h s = (s', r)) :
    exec (.ackNotice h x) s = .next (s'.answers h .ackNotice x [] r) :=
  congrArg Host.Outcome.next (State.sends_answered ha (congrArg answered hr))

/-! ## The Completion Queue (R136, R137) -/

theorem fetchCompletionCommand_nil {s : State} {h : HostId} (hq : (s.host h).cq = []) :
    fetchCompletionCommand h s = (s, ⟨.empty, []⟩) := by
  simp [fetchCompletionCommand, hq, plain]

theorem fetchCompletionCommand_cons {s : State} {h : HostId} {r : Completion} {rs : List Completion}
    (hq : (s.host h).cq = r :: rs) :
    fetchCompletionCommand h s =
      (s.updHost h fun c => { c with presentedTag := some r.tag }, ⟨.done, byteOf (rs.length + 1) :: r.toBytes⟩) := by
  simp [fetchCompletionCommand, hq]

theorem retireCommand_unpresented {s : State} {h : HostId} (tag : Byte) (hp : (s.host h).presentedTag = none) :
    retireCommand h [tag] s = (s, ⟨.notPresented, []⟩) := by
  simp [retireCommand, oneByte, hp, plain]

theorem retireCommand_mismatch {s : State} {h : HostId} {tag shown : Byte} {r : Completion} {rs : List Completion}
    (hq : (s.host h).cq = r :: rs) (hp : (s.host h).presentedTag = some shown) (ne : shown ≠ tag) :
    retireCommand h [tag] s = (s, ⟨.tagMismatch, []⟩) := by
  simp [retireCommand, oneByte, hq, hp, ne, plain]

theorem retireCommand_presented {s : State} {h : HostId} {tag : Byte} {r : Completion} {rs : List Completion}
    (hq : (s.host h).cq = r :: rs) (hp : (s.host h).presentedTag = some tag) :
    retireCommand h [tag] s =
      (s.updHost h fun c => { c with cq := rs, credits := c.credits + 1, presentedTag := none },
        ⟨.done, [byteOf ((s.host h).credits + 1), byteOf rs.length]⟩) := by
  simp [retireCommand, oneByte, hq, hp]

/-- Settles O19: each command by what stands at the head of the Completion Queue and in its marker. -/
theorem completionsArePresentedAndRetired : Obligations.CompletionsArePresentedAndRetired := by
  intro s h x tag
  refine ⟨fun ha => ⟨fun hq => ?_, fun r rs hq => ?_⟩, fun ha => ⟨fun hp => ?_, fun r rs shown hq hp => ⟨fun ne => ?_, ?_⟩⟩⟩
  · exact exec_fetchCompletion_accepted ha (fetchCompletionCommand_nil hq)
  · exact exec_fetchCompletion_accepted ha (fetchCompletionCommand_cons hq)
  · exact exec_retire_accepted ha (retireCommand_unpresented tag hp)
  · exact exec_retire_accepted ha (retireCommand_mismatch hq hp ne)
  · rintro rfl
    exact exec_retire_accepted ha (retireCommand_presented hq hp)

/-! ## The Notice Queue's commands (R145, R146) -/

theorem fetchNoticeCommand_nil {s : State} {h : HostId} (hq : (s.host h).nq = []) :
    fetchNoticeCommand h s = (s, ⟨.empty, [boolByte (s.host h).overflow]⟩) := by
  simp [fetchNoticeCommand, hq]

theorem fetchNoticeCommand_cons {s : State} {h : HostId} {n : Notice} {ns : List Notice} (hq : (s.host h).nq = n :: ns) :
    fetchNoticeCommand h s =
      (s.updHost h fun c => { c with presentedNotice := true, overflowSeen := c.overflow },
        ⟨.done, [boolByte (s.host h).overflow, byteOf (ns.length + 1)] ++ n.toBytes⟩) := by
  simp [fetchNoticeCommand, hq]

theorem ackNoticeCommand_unpresented {s : State} {h : HostId} (hp : (s.host h).presentedNotice = false) :
    ackNoticeCommand h s = (s, ⟨.notPresented, []⟩) := by
  simp [ackNoticeCommand, hp, plain]

/-- An overflow that the host has seen is over. -/
theorem ackNoticeCommand_seen {s : State} {h : HostId} {n : Notice} {ns : List Notice} (hq : (s.host h).nq = n :: ns)
    (hp : (s.host h).presentedNotice = true) (seen : (s.host h).overflowSeen = true) :
    ackNoticeCommand h s =
      (s.updHost h fun c => { c with nq := ns, presentedNotice := false, overflow := false, overflowSeen := false },
        ⟨.done, [0, byteOf ns.length]⟩) := by
  simp only [ackNoticeCommand, hq, hp, State.updHost_host_self, seen, Bool.not_true, Bool.and_false]
  congr 1
  exact State.updHost_congr (by simp [seen])

/-- An overflow that the host has not seen stays. -/
theorem ackNoticeCommand_unseen {s : State} {h : HostId} {n : Notice} {ns : List Notice} (hq : (s.host h).nq = n :: ns)
    (hp : (s.host h).presentedNotice = true) (unseen : (s.host h).overflowSeen = false) :
    ackNoticeCommand h s =
      (s.updHost h fun c => { c with nq := ns, presentedNotice := false },
        ⟨.done, [boolByte (s.host h).overflow, byteOf ns.length]⟩) := by
  simp only [ackNoticeCommand, hq, hp, State.updHost_host_self, unseen, Bool.not_false, Bool.and_true]
  congr 1
  exact State.updHost_congr (by simp [unseen])

/-- Settles O20: each command by what stands at the head of the Notice Queue, and in its marker and flags. -/
theorem noticesArePresentedAndAcknowledged : Obligations.NoticesArePresentedAndAcknowledged := by
  intro s h x
  refine ⟨fun ha => ⟨fun hq => ?_, fun n ns hq => ?_⟩,
    fun ha => ⟨fun hp => ?_, fun n ns hq hp => ⟨fun seen => ?_, fun unseen => ?_⟩⟩⟩
  · exact exec_fetchNotice_accepted ha (fetchNoticeCommand_nil hq)
  · exact exec_fetchNotice_accepted ha (fetchNoticeCommand_cons hq)
  · exact exec_ackNotice_accepted ha (ackNoticeCommand_unpresented hp)
  · exact exec_ackNotice_accepted ha (ackNoticeCommand_seen hq hp seen)
  · exact exec_ackNotice_accepted ha (ackNoticeCommand_unseen hq hp unseen)

/-! ## What a Notice Queue does with a notice (R142) -/

theorem Notice.isAlertFor_iff (n : Notice) (subj : Subject) :
    n.isAlertFor subj = true ↔ n.kind = .alert ∧ n.subject = subj :=
  decide_eq_true_iff

theorem coalesceIn_eq_none {subj : Subject} (d : Byte) {ns : List Notice} (miss : ∀ m ∈ ns, ¬m.isAlertFor subj) :
    coalesceIn subj d ns = none := by
  induction ns with
  | nil => rfl
  | cons n ns ih =>
    obtain ⟨missHead, missTail⟩ := List.forall_mem_cons.1 miss
    rw [coalesceIn, if_neg missHead, ih missTail, Option.map_none]

/-- The first ALERT record for the subject takes the notice, the records before it staying as they are. -/
theorem coalesceIn_append {subj : Subject} (d : Byte) {pre : List Notice} {n : Notice} (post : List Notice)
    (miss : ∀ m ∈ pre, ¬m.isAlertFor subj) (hit : n.isAlertFor subj) :
    coalesceIn subj d (pre ++ n :: post) =
      some (pre ++ { n with detail := n.detail ||| d, count := if n.count < 255 then n.count + 1 else n.count } :: post) := by
  induction pre with
  | nil => rw [List.nil_append, coalesceIn, if_pos hit, List.nil_append]
  | cons m ms ih =>
    obtain ⟨missHead, missTail⟩ := List.forall_mem_cons.1 miss
    rw [List.cons_append, coalesceIn, if_neg missHead, ih missTail, Option.map_some, List.cons_append]

theorem HostCtx.takeNotice_of_held {c : HostCtx} (held : c.attached = false) (k : NoticeKind) (subj : Subject) (d : Byte)
    (now : Stamp) : c.takeNotice k subj d now = c := by
  simp [HostCtx.takeNotice, held]

theorem HostCtx.takeNotice_of_joined {c : HostCtx} (attached : c.attached = true) {subj : Subject} {d : Byte}
    {ns : List Notice} (joined : coalesceIn subj d c.unpresentedPart = some ns) (now : Stamp) :
    c.takeNotice .alert subj d now = { c with nq := c.presentedPart ++ ns } := by
  simp [HostCtx.takeNotice, attached, joined]

/-- A notice that no record takes is a record of its own, or overflows. -/
theorem HostCtx.takeNotice_of_apart {c : HostCtx} (attached : c.attached = true) {k : NoticeKind} {subj : Subject}
    (apart : k = .alert → ∀ m ∈ c.unpresentedPart, ¬m.isAlertFor subj) (d : Byte) (now : Stamp) :
    c.takeNotice k subj d now = c.appendNotice { kind := k, subject := subj, detail := d, count := 1, stamp := now } := by
  have noRecord : (if k = .alert then coalesceIn subj d c.unpresentedPart else none) = none := by
    split
    · next alert => exact coalesceIn_eq_none d (apart alert)
    · rfl
  simp [HostCtx.takeNotice, attached, noRecord]

theorem HostCtx.appendNotice_of_room {c : HostCtx} (room : c.nq.length < 12) (n : Notice) :
    c.appendNotice n = { c with nq := c.nq ++ [n] } :=
  if_pos room

theorem HostCtx.appendNotice_of_full {c : HostCtx} (full : 12 ≤ c.nq.length) (n : Notice) :
    c.appendNotice n = { c with overflow := true, overflowSeen := false } :=
  if_neg (Nat.not_lt.2 full)

/-- Settles O21: a notice meets the first record it joins, or none, and then what room the queue has decides. -/
theorem noticeDelivery : Obligations.NoticeDelivery := by
  intro c k subj d now shown rest joins
  have apart (noneJoins : ∀ m ∈ rest, ¬joins m) (alert : k = .alert) : ∀ m ∈ c.unpresentedPart, ¬m.isAlertFor subj :=
    fun m hm same => noneJoins m hm ⟨alert, (m.isAlertFor_iff subj).1 same⟩
  refine ⟨fun held => HostCtx.takeNotice_of_held held k subj d now, ?_, ?_, ?_⟩
  · rintro attached pre n post split ⟨rfl, same⟩ before
    have miss : ∀ m ∈ pre, ¬m.isAlertFor subj := fun m hm other => before m hm ⟨rfl, (m.isAlertFor_iff subj).1 other⟩
    have joined := coalesceIn_append d post miss ((n.isAlertFor_iff subj).2 same)
    rw [← split] at joined
    rw [HostCtx.takeNotice_of_joined attached joined, List.append_assoc]
    rfl
  · intro attached noneJoins room
    rw [HostCtx.takeNotice_of_apart attached (apart noneJoins), HostCtx.appendNotice_of_room room]
  · intro attached noneJoins full
    rw [HostCtx.takeNotice_of_apart attached (apart noneJoins), HostCtx.appendNotice_of_full full]

end Sys2Proof.Machine
end

section
/-! PROOFS. Host contexts, rights and teardown (chapter 09): what HOST_RIGHTS reads from its payload, and the record it stores or
refuses. -/

namespace Sys2Proof.Machine

/-! ## The payload of HOST_RIGHTS (R170, R207) -/

theorem hostOfByte_byteOf (g : HostId) : hostOfByte (byteOf g.val) = some g := by
  have fits : (byteOf g.val).toNat = g.val := by
    simp only [byteOf, BitVec.toNat_ofNat]
    omega
  simp [hostOfByte, fits]

theorem hostOfByte_eq_none {b : Byte} (outside : 4 ≤ b.toNat) : hostOfByte b = none := by
  simp [hostOfByte, outside]

theorem laneSetOfByte_inRange {b : Byte} (fits : b.toNat < 4) : laneSetOfByte b = some (b.setWidth 2) :=
  if_pos fits

theorem laneSetOfByte_eq_none {b : Byte} (outside : 4 ≤ b.toNat) : laneSetOfByte b = none :=
  if_neg (Nat.not_lt.2 outside)

theorem parseHostRights_eq (host rights cap lanes : Byte) :
    parseHostRights [host, rights, cap, lanes] =
      (hostOfByte host).bind fun g => (laneSetOfByte lanes).bind fun ls =>
        if rights.toNat < 8 ∧ cap.toNat ≤ 3 then
          some (g, { admin := rights.getLsbD 0, lease := rights.getLsbD 1, trace := rights.getLsbD 2, cap := cap.toNat
                     lanes := ls })
        else none := by
  cases hg : hostOfByte host with
  | none => simp [parseHostRights, hg]
  | some g =>
    cases hl : laneSetOfByte lanes with
    | none => simp [parseHostRights, hg, hl]
    | some ls => simp [parseHostRights, hg, hl]

theorem parseHostRights_badField {host rights cap lanes : Byte}
    (bad : 4 ≤ host.toNat ∨ 8 ≤ rights.toNat ∨ 3 < cap.toNat ∨ 4 ≤ lanes.toNat) :
    parseHostRights [host, rights, cap, lanes] = none := by
  rw [parseHostRights_eq]
  rcases bad with noHost | undefined | above | noLane
  · simp [hostOfByte_eq_none noHost]
  · simp [Nat.not_lt.2 undefined]
  · simp [Nat.not_le.2 above]
  · simp [laneSetOfByte_eq_none noLane]

theorem parseHostRights_inRange (g : HostId) {rights cap lanes : Byte} (defined : rights.toNat < 8) (capped : cap.toNat ≤ 3)
    (fits : lanes.toNat < 4) :
    parseHostRights [byteOf g.val, rights, cap, lanes] =
      some (g, { admin := rights.getLsbD 0, lease := rights.getLsbD 1, trace := rights.getLsbD 2, cap := cap.toNat
                 lanes := lanes.setWidth 2 }) := by
  rw [parseHostRights_eq, hostOfByte_byteOf, laneSetOfByte_inRange fits, Option.bind_some, Option.bind_some,
    if_pos ⟨defined, capped⟩]

/-! ## The answer repeats the fields (R170, R206) -/

theorem byteOf_toNat (b : Byte) : byteOf b.toNat = b := by
  simp [byteOf]

/-- The three rights bits make up the byte they were read from. -/
theorem rightsByte_of_bits {b : Byte} {r : Rights} (defined : b.toNat < 8) (admin : r.admin = b.getLsbD 0)
    (lease : r.lease = b.getLsbD 1) (trace : r.trace = b.getLsbD 2) : rightsByte r = b := by
  have bits : ∀ n < 8, boolByte ((byteOf n).getLsbD 0) ||| boolByte ((byteOf n).getLsbD 1) <<< 1
      ||| boolByte ((byteOf n).getLsbD 2) <<< 2 = byteOf n := by decide
  simpa only [rightsByte, admin, lease, trace, byteOf_toNat] using bits b.toNat defined

theorem setWidth_laneSet {b : Byte} (fits : b.toNat < 4) : (b.setWidth 2).setWidth 8 = b := by
  apply BitVec.eq_of_toNat_eq
  simp only [BitVec.toNat_setWidth]
  omega

/-! ## What HOST_RIGHTS answers -/

theorem exec_hostRights_accepted {s s' : State} {h : HostId} {x host rights cap lanes : Byte} {r : Reply}
    (ha : s.accepts h .hostRights x [host, rights, cap, lanes] = true)
    (hr : hostRights [host, rights, cap, lanes] s = (s', r)) :
    exec (.hostRights h x host rights cap lanes) s = .next (s'.answers h .hostRights x [host, rights, cap, lanes] r) :=
  congrArg Host.Outcome.next (State.sends_answered ha (congrArg answered hr))

theorem State.adminBeside_eq_false_iff (s : State) (g : HostId) :
    s.adminBeside g = false ↔ ∀ k, k ≠ g → (s.host k).rights.admin = false := by
  have every (k : HostId) : k ∈ allHosts := by revert k; decide
  simp [State.adminBeside, every]

theorem hostRights_badField {p : List Byte} {s : State} (hp : parseHostRights p = none) :
    hostRights p s = (s, ⟨.badField, []⟩) := by
  simp [hostRights, hp, plain]

/-- The record takes ADMIN from the one host that holds it. -/
theorem hostRights_lastAdmin {p : List Byte} {s : State} {g : HostId} {r : Rights} (hp : parseHostRights p = some (g, r))
    (last : r.admin = false ∧ (s.host g).rights.admin = true ∧ ∀ k, k ≠ g → (s.host k).rights.admin = false) :
    hostRights p s = (s, ⟨.lastAdmin, []⟩) := by
  rw [← State.adminBeside_eq_false_iff] at last
  simp [hostRights, hp, last, plain]

theorem hostRights_replaced {p : List Byte} {s : State} {g : HostId} {r : Rights} (hp : parseHostRights p = some (g, r))
    (notLast : ¬(r.admin = false ∧ (s.host g).rights.admin = true ∧ ∀ k, k ≠ g → (s.host k).rights.admin = false)) :
    hostRights p s =
      (s.updHost g fun c => { c with rights := r }, ⟨.done, [rightsByte r, byteOf r.cap, r.lanes.setWidth 8]⟩) := by
  rw [← State.adminBeside_eq_false_iff] at notLast
  simp only [hostRights, hp, if_neg notLast]

/-- Settles O49: the payload names a host and a record or none, and the record is refused only from the last ADMIN; the bytes
answered are those of the payload. -/
theorem hostRightsReplace : Obligations.HostRightsReplace := by
  refine ⟨fun s h x host rights cap lanes ha bad =>
    exec_hostRights_accepted ha (hostRights_badField (parseHostRights_badField bad)), ?_⟩
  intro s h g x rights cap lanes r p ha defined capped fits hr last
  have parsed : parseHostRights p = some (g, r) := hr ▸ parseHostRights_inRange g defined capped fits
  have echoed : [rightsByte r, byteOf r.cap, r.lanes.setWidth 8] = [rights, cap, lanes] := by
    subst hr
    rw [rightsByte_of_bits defined rfl rfl rfl, byteOf_toNat, setWidth_laneSet fits]
  exact ⟨fun isLast => exec_hostRights_accepted ha (hostRights_lastAdmin parsed isLast),
    fun notLast => echoed ▸ exec_hostRights_accepted ha (hostRights_replaced parsed notLast)⟩

end Sys2Proof.Machine
end

section
/-! PROOFS. The step, the rows and the device reset (chapters 10 and 11): what gates a row, and the state a device reset holds and
releases. -/

namespace Sys2Proof.Machine

/-! ## The gates of the rows -/

/-- A row that a port brings has its effect when the port hears it, and none otherwise (R179, R186). -/
theorem exec_port_row {c : Instr} {h : HostId} (hc : Instr.port c = some h) :
    ∃ lasted act, ∀ s, exec c s = .next (s.onPort h lasted act) := by
  cases c <;> cases hc <;> exact ⟨_, _, fun _ => rfl⟩

/-- A row that the pins of the lanes, the hosts' reset lines, the Time Base or the image EEPROM bring has its effect unless a device
reset is asserted (R193). -/
theorem exec_event_row {c : Instr} (hc : Instr.port c = none) (assert : c ≠ .deviceResetAssert)
    (release : ∀ p, c ≠ .deviceResetRelease p) : ∃ act, ∀ s, exec c s = .next (s.live act) := by
  cases c <;> first
    | exact ⟨_, fun _ => rfl⟩
    | exact absurd rfl assert
    | exact absurd rfl (release _)
    | cases hc

theorem State.hears_of_reset {s : State} (asserted : s.resetAsserted = true) (h : HostId) (lasted : Nat) :
    s.hears h lasted = false := by
  simp [State.hears, asserted]

theorem State.hears_of_held {s : State} {h : HostId} (held : (s.host h).attached = false) (lasted : Nat) :
    s.hears h lasted = false := by
  simp [State.hears, held]

theorem State.hears_of_early {s : State} {h : HostId} {lasted : Nat} (early : s.elapsed < (s.host h).port.listensFrom + lasted) :
    s.hears h lasted = false := by
  simp [State.hears, early]

/-- While a device reset is asserted no row but its own two has an effect (R193). -/
theorem exec_of_reset {c : Instr} {s : State} (asserted : s.resetAsserted = true) (assert : c ≠ .deviceResetAssert)
    (release : ∀ p, c ≠ .deviceResetRelease p) : exec c s = .next s := by
  cases hc : Instr.port c with
  | some h =>
    obtain ⟨lasted, act, row⟩ := exec_port_row hc
    rw [row, State.onPort_of_deaf _ _ _ _ (State.hears_of_reset asserted h lasted)]
  | none =>
    obtain ⟨act, row⟩ := exec_event_row hc assert release
    rw [row, State.live_of_reset _ _ asserted]

/-- Settles O1: it is how a step is defined. -/
theorem stepRunsFrontCommand : Obligations.StepRunsFrontCommand := by
  intro c rest s front
  simp [step, front]

/-! ## The device reset (R193) -/

theorem State.resetFalls_host (s : State) (h : HostId) :
    s.resetFalls.host h = { s.host h with port := { (s.host h).port with captured := none, sdo := [] } } := by
  simp [State.resetFalls, State.host]

theorem State.resetFalls_lane (s : State) (x : LaneId) : s.resetFalls.lane x = (s.lane x).abandoned := by
  cases x <;> rfl

theorem State.afterRelease_entry (p : ResetPins) (q : List Instr) (t : TargetId) :
    (State.afterRelease p q).entry t = TableEntry.afterReset := by
  simp [State.afterRelease, State.entry]

theorem State.afterRelease_host (p : ResetPins) (q : List Instr) (h : HostId) :
    (State.afterRelease p q).host h = HostCtx.afterReset (decide (h = p.adm)) (hostIn p.hostHigh h) := by
  simp [State.afterRelease, State.host]

theorem exec_deviceResetRelease_of_reset (p : ResetPins) {s : State} (asserted : s.resetAsserted = true) :
    exec (.deviceResetRelease p) s = .next (State.afterRelease p s.pending) := by
  change Host.Outcome.next (if s.resetAsserted then _ else s) = _
  rw [if_pos asserted]

/-- Settles O3: the assertion, the rows while it lasts, and the release, field by field. -/
theorem deviceResetHoldsAndReleases : Obligations.DeviceResetHoldsAndReleases := by
  refine ⟨fun s => ⟨s.resetFalls, rfl, rfl, ?_, ?_, rfl, rfl, rfl, rfl, rfl, ?_⟩, fun c s => exec_of_reset, ?_⟩
  · intro h
    simp [State.attn, State.resetFalls]
  · intro x
    rw [State.resetFalls_lane]
    exact ⟨rfl, rfl, rfl, rfl, rfl⟩
  · intro h
    rw [State.resetFalls_host]
    exact ⟨rfl, rfl, rfl, rfl⟩
  · intro p s asserted
    refine ⟨_, exec_deviceResetRelease_of_reset p asserted, rfl, rfl, rfl, rfl, rfl, fun e => ?_, fun h => ?_, rfl, rfl,
      fun x => ?_, rfl, rfl, fun i hi => ?_, rfl, rfl, rfl, rfl, rfl, rfl, rfl, rfl, rfl, rfl, rfl, rfl, rfl, rfl, rfl⟩
    · exact State.afterRelease_entry p _ e
    · rw [State.afterRelease_host]
      refine ⟨rfl, ?_, rfl, rfl, rfl, rfl, rfl, rfl, rfl, rfl, rfl, rfl, rfl, rfl, rfl, rfl, rfl, rfl, rfl, rfl, rfl⟩
      by_cases adm : h = p.adm <;> simp [HostCtx.afterReset, Rights.afterReset, adm]
    · cases x <;> exact ⟨rfl, rfl, rfl, rfl, rfl, rfl, rfl, rfl, rfl, rfl⟩
    · simp [State.afterRelease, Trace.afterReset]

/-! ## Transfers a port takes no part in (R179, R186) -/

theorem exec_of_held {c : Instr} {s : State} {h : HostId} (hc : Instr.port c = some h) (held : (s.host h).attached = false) :
    exec c s = .next s := by
  obtain ⟨lasted, act, row⟩ := exec_port_row hc
  rw [row, State.onPort_of_deaf _ _ _ _ (State.hears_of_held held lasted)]

theorem transferKind_ignored {bytes : List Byte} (neither : ∀ b, bytes.head? = some b → b ≠ 0x3C ∧ b ≠ 0xC3) :
    transferKind bytes = .ignored := by
  have notFrame : bytes.head? ≠ some Config.frameMarker := fun e => (neither _ e).1 rfl
  have notRead : bytes.head? ≠ some Config.readMarker := fun e => (neither _ e).2 rfl
  rw [transferKind, if_neg notFrame, if_neg notRead]

/-- The bit on SDOn after a fall of the clock is one of the byte in progress, the most significant first (R179). -/
theorem msbFirst_getD (b : Byte) {i : Nat} (hi : i < 8) : ((msbFirst b)[i]?).getD false = b.getLsbD (7 - i) := by
  interval_cases i <;> rfl

theorem State.sdoLevel_of_deaf {s : State} {h : HostId} {lasted : Nat} {w : SpiBits}
    (deaf : w.selected = false ∨ s.hears h lasted = false) : s.sdoLevel h lasted w = .highZ := by
  rcases deaf with idle | deaf
  · simp [State.sdoLevel, idle]
  · simp [State.sdoLevel, deaf]

theorem State.sdoLevel_of_hearing {s : State} {h : HostId} {lasted : Nat} {w : SpiBits} (selected : w.selected = true)
    (hears : s.hears h lasted = true) :
    s.sdoLevel h lasted w = .driven (((s.host h).port.sdoByte (w.falls / 8)).getLsbD (7 - w.falls % 8)) := by
  rw [State.sdoLevel, selected, hears, msbFirst_getD _ (Nat.mod_lt _ (by decide))]
  rfl

theorem Port.sdoByte_of_no_capture {p : Port} (none : p.captured = none) (i : Nat) : p.sdoByte i = 0 := by
  simp [Port.sdoByte, none]

/-- From the second byte on a response read delivers its capture (R181). -/
theorem Port.sdoByte_of_capture {p : Port} {bytes : List Byte} {b : Byte} {i : Nat} (captured : p.captured = some bytes)
    (pos : 1 ≤ i) (hb : bytes[i - 1]? = some b) : p.sdoByte i = b := by
  obtain ⟨j, rfl⟩ := Nat.exists_eq_add_of_le' pos
  have hb : bytes[j]? = some b := hb
  simp [Port.sdoByte, captured, hb]

/-- Settles O7: the rows by the gate of the port, the level of SDOn by the same gate. -/
theorem ignoredTransfersAndHeldPorts : Obligations.IgnoredTransfersAndHeldPorts := by
  refine ⟨?_, fun s h c hc held => exec_of_held hc held, ?_, ?_⟩
  · intro s h bytes lasted hears neither
    change Host.Outcome.next (s.onPort h lasted _) = _
    rw [State.onPort_of_hearing _ _ _ _ hears, ignoredBytes, transferKind_ignored neither]
    rfl
  · intro s h lasted early f o bytes part c hc
    have deaf : ∀ act, s.onPort h lasted act = s := fun act => State.onPort_of_deaf _ _ _ act (State.hears_of_early early)
    simp only [List.mem_cons, List.not_mem_nil, or_false] at hc
    rcases hc with rfl | rfl | rfl | rfl | rfl | rfl | rfl <;> exact congrArg Host.Outcome.next (deaf _)
  · intro s h lasted w
    refine ⟨?_, ?_⟩
    · rintro (idle | held | asserted | early)
      · exact State.sdoLevel_of_deaf (.inl idle)
      · exact State.sdoLevel_of_deaf (.inr (State.hears_of_held held lasted))
      · exact State.sdoLevel_of_deaf (.inr (State.hears_of_reset asserted h lasted))
      · exact State.sdoLevel_of_deaf (.inr (State.hears_of_early early))
    · intro selected attached released begun
      have hears : s.hears h lasted = true := by simp [State.hears, attached, released, begun]
      refine ⟨_, State.sdoLevel_of_hearing selected hears, fun none => ?_, fun bytes b captured second hb => ?_⟩
      · simp [Port.sdoByte_of_no_capture none]
      · rw [Port.sdoByte_of_capture captured (by omega) hb]

end Sys2Proof.Machine
end

section
/-! PROOFS. Host ports (chapter 10): what malformed, discarded, repeated and refused frames do, how a frame is judged, and what a
response read delivers. -/

namespace Sys2Proof.Machine

/-! ## Frames that are not executed (R180, R182 to R184) -/

/-- Two changes that agree on the port as it is are one change. -/
theorem State.updPort_congr {s : State} {h : HostId} {f g : Port → Port} (e : f (s.host h).port = g (s.host h).port) :
    s.updPort h f = s.updPort h g :=
  State.updHost_congr (by rw [e])

theorem State.takeMalformed_eq (s : State) (h : HostId) (exch : Byte) (n : Nat) :
    s.takeMalformed h exch n = s.updPort h fun p =>
      { (if p.slot = .pending then p.discard else p.storeError exch) with sdo := List.replicate n 0 } := by
  simp [State.takeMalformed, State.sdoZeros]

theorem State.discard_sdoZeros (s : State) (h : HostId) (n : Nat) :
    (s.updPort h Port.discard).sdoZeros h n = s.updPort h fun p => { p with discarded := true, sdo := List.replicate n 0 } := by
  simp [State.sdoZeros, Port.discard]

theorem exec_malformedFrame_heard {s : State} {h : HostId} {bytes : List Byte} {lasted : Nat} (hears : s.hears h lasted = true)
    (malformed : judgeFrame bytes = none) :
    exec (.malformedFrame ⟨h, lasted⟩ bytes) s = .next (s.takeMalformed h (receivedExch bytes) (bytes.length + 1)) := by
  change Host.Outcome.next (s.onPort h lasted _) = _
  rw [State.onPort_of_hearing _ _ _ _ hears]
  simp [malformed]

theorem spellsDetach_eq_false {bytes : List Byte} (other : ∀ f, judgeFrame bytes = some f → f.code ≠ Cmd.detach.code) :
    spellsDetach bytes = false := by
  cases hj : judgeFrame bytes with
  | none => simp [spellsDetach, hj]
  | some f => simp [spellsDetach, hj, Frame.isDetach, other f hj]

theorem exec_discardedFrame_heard {s : State} {h : HostId} {bytes : List Byte} {lasted : Nat} (hears : s.hears h lasted = true)
    (other : ∀ f, judgeFrame bytes = some f → f.code ≠ Cmd.detach.code) (pending : (s.host h).port.slot = .pending) :
    exec (.discardedFrame ⟨h, lasted⟩ bytes) s = .next (s.updPort h fun p =>
      { p with discarded := true, sdo := List.replicate (bytes.length + 1) 0 }) := by
  change Host.Outcome.next (s.onPort h lasted _) = _
  rw [State.onPort_of_hearing _ _ _ _ hears]
  simp [pending, spellsDetach_eq_false other, State.discard_sdoZeros]

theorem Port.repeats_of_memory {p : Port} {f : Frame} {r : Response} (ready : p.slot = .ready r)
    (memory : p.memory = some (f.exch, Frame.check f)) : p.repeats f = true := by
  simp [Port.repeats, ready, memory]

/-- A frame that repeats the executed one is not executed again, whichever row brings it (R183). -/
theorem State.takeFrame_of_repeat {s : State} {h : HostId} {f : Frame} (o : LaneObs) {r : Response} (wf : f.wf = true)
    (ready : (s.host h).port.slot = .ready r) (repeats : (s.host h).port.repeats f = true) :
    s.takeFrame h f o = s.sdoZeros h (f.payload.length + 5) := by
  simp [State.takeFrame, wf, State.judgeSlot, ready, repeats]

/-- Settles O5: each row on a port that hears it. -/
theorem malformedDiscardedAndRepeatedFrames : Obligations.MalformedDiscardedAndRepeatedFrames := by
  refine ⟨fun s h bytes lasted hears => ⟨fun malformed free => ?_, fun other pending => ?_, fun malformed pending => ?_⟩, ?_⟩
  · rw [exec_malformedFrame_heard hears malformed, State.takeMalformed_eq]
    exact congrArg Host.Outcome.next (State.updPort_congr (by rw [if_neg free]; rfl))
  · exact exec_discardedFrame_heard hears other pending
  · rw [exec_malformedFrame_heard hears malformed, State.takeMalformed_eq,
      exec_discardedFrame_heard hears (by simp [malformed]) pending]
    exact congrArg Host.Outcome.next (State.updPort_congr (by rw [if_pos pending]; rfl))
  · intro s h f o r lasted hears wf ready memory
    have repeats := Port.repeats_of_memory ready memory
    have row : exec (.repeatFrame ⟨h, lasted⟩ f) s = .next (s.sdoZeros h (f.payload.length + 5)) := by
      change Host.Outcome.next (s.onPort h lasted _) = _
      rw [State.onPort_of_hearing _ _ _ _ hears]
      simp [wf, repeats]
    refine ⟨row, ?_⟩
    rw [row]
    change Host.Outcome.next (s.onPort h lasted _) = _
    rw [State.onPort_of_hearing _ _ _ _ hears, State.takeFrame_of_repeat o wf ready repeats]

/-! ## The checks of the Command Unit (R187, R188) -/

/-- A frame that the Command Unit refuses is answered with the status, and nothing else changes (R187, R189). -/
theorem exec_commandFrame_refused {s : State} {h : HostId} {f : Frame} {lasted : Nat} {st : Status} (o : LaneObs)
    (hears : s.hears h lasted = true) (executes : s.executes h f = true) (refused : commandUnit h f s = .error st) :
    exec (.commandFrame ⟨h, lasted⟩ f o) s = .next (s.updPort h fun q => q.answered f ⟨st, []⟩) := by
  change Host.Outcome.next (s.onPort h lasted _) = _
  rw [State.takeFrame_executes s h f o lasted hears executes, State.execute, refused]
  exact congrArg Host.Outcome.next (State.respond_answered s h f (plain st))

theorem exec_unknownCommand_eq {f : Frame} (unknown : Cmd.ofCode f.code = none) (v : Transfer) (s : State) :
    exec (.unknownCommand v f) s = exec (.commandFrame v f quietObs) s := by
  change Host.Outcome.next (s.onPort v.host v.lasted _) = _
  simp only [unknown, Option.isNone_none, if_true]
  rfl

theorem commandUnit_unknown {h : HostId} {f : Frame} {s : State} (unknown : Cmd.ofCode f.code = none) :
    commandUnit h f s = .error .unknownCommand := by
  simp [commandUnit, unknown]

theorem commandUnit_loading {h : HostId} {f : Frame} {s : State} {c : Cmd} (known : Cmd.ofCode f.code = some c)
    (loading : s.loader.state = .loading) (other : c ≠ .deviceInfo) : commandUnit h f s = .error .notReady := by
  simp [commandUnit, known, State.loading, loading, other]

/-- Behind the check of the image load (R187). -/
theorem commandUnit_loaded {h : HostId} {f : Frame} {s : State} {c : Cmd} (known : Cmd.ofCode f.code = some c)
    (loaded : s.loader.state ≠ .loading ∨ c = .deviceInfo) :
    commandUnit h f s = if c.permitted (s.host h).rights = false then .error .noRight
      else if c.fieldless = true ∧ f.payload ≠ [] then .error .badField else .ok c := by
  have ready : (s.loading && !decide (c = .deviceInfo)) = false := by
    rcases loaded with ended | info
    · simp [State.loading, ended]
    · simp [info]
  simp [commandUnit, known, ready]

/-- The rights the Command Unit asks for (R188). -/
theorem Cmd.permitted_eq_false_iff (c : Cmd) (r : Rights) : c.permitted r = false ↔
    (c ∈ [Cmd.leaseRevoke, .tableWrite, .targetControl, .laneConfig, .laneRestart, .hostRights] ∧ r.admin = false)
      ∨ (c = .lease ∧ r.lease = false) ∨ (c ∈ [Cmd.traceClaim, .traceControl, .traceRead] ∧ r.trace = false) := by
  cases c <;> simp [Cmd.permitted]

/-- The commands that carry no fields (R188). -/
theorem Cmd.fieldless_iff (c : Cmd) : c.fieldless = true ↔
    c ∈ [Cmd.resume, .fetchCompletion, .fetchNotice, .ackNotice, .detach, .traceRelease, .deviceInfo] := by
  cases c <;> simp [Cmd.fieldless]

/-- No command without fields asks for a right (R188). -/
theorem Cmd.permitted_of_fieldless {c : Cmd} (fieldless : c.fieldless = true) (r : Rights) : c.permitted r = true := by
  cases c <;> first | rfl | cases fieldless

/-- Settles O8: the four checks in their order. -/
theorem commandUnitRefusals : Obligations.CommandUnitRefusals := by
  intro s h f o lasted hears executes
  have refuse {st : Status} (o : LaneObs) (refused : commandUnit h f s = .error st) :=
    exec_commandFrame_refused o hears executes refused
  refine ⟨fun unknown => ?_, fun c known => ⟨fun loading other => ?_, fun loaded denied => ?_, fun loaded bare fields => ?_⟩⟩
  · rw [exec_unknownCommand_eq unknown]
    exact ⟨refuse _ (commandUnit_unknown unknown),
      (refuse o (commandUnit_unknown unknown)).trans (refuse _ (commandUnit_unknown unknown)).symm⟩
  · exact refuse o (commandUnit_loading known loading other)
  · refine refuse o ?_
    rw [commandUnit_loaded known loaded, if_pos ((c.permitted_eq_false_iff _).2 denied)]
  · refine refuse o ?_
    have fieldless := c.fieldless_iff.2 bare
    rw [commandUnit_loaded known loaded, if_neg (by simp [Cmd.permitted_of_fieldless fieldless]), if_pos ⟨fieldless, fields⟩]

/-! ## Judging a frame (R180, R204) -/

theorem byteOf_length_toNat {α : Type} {l : List α} (fits : l.length ≤ Config.maxPayload) : (byteOf l.length).toNat = l.length := by
  simp only [Config.maxPayload] at fits
  simp only [byteOf, BitVec.toNat_ofNat]
  omega

theorem judgeFrame_wire {f : Frame} (wf : f.wf = true) : judgeFrame (Frame.wire f) = some f := by
  have fits : f.payload.length ≤ Config.maxPayload := of_decide_eq_true wf
  simp [Frame.wire, Frame.body, judgeFrame, byteOf_length_toNat fits, fits]

theorem judgeFrame_eq_some {bytes : List Byte} {f : Frame} (judged : judgeFrame bytes = some f) :
    f.wf = true ∧ bytes = Frame.wire f := by
  match bytes, judged with
  | code :: exch :: len :: rest, judged =>
    simp only [judgeFrame, Option.ite_none_right_eq_some, Option.some.injEq] at judged
    obtain ⟨⟨fits, long, check⟩, rfl⟩ := judged
    have taken : (rest.take len.toNat).length = len.toNat := by simp [long]
    have length : byteOf (rest.take len.toNat).length = len := by rw [taken, byteOf_toNat]
    refine ⟨by simpa [Frame.wf, taken] using fits, ?_⟩
    have split : rest = rest.take len.toNat ++ rest.drop len.toNat := (List.take_append_drop _ _).symm
    rw [check] at split
    simp only [Frame.wire, Frame.body, length]
    simpa using split
  | [], judged => simp [judgeFrame] at judged
  | [_], judged => simp [judgeFrame] at judged
  | [_, _], judged => simp [judgeFrame] at judged

/-- Settles O9. -/
theorem frameBytesRoundTrip : Obligations.FrameBytesRoundTrip :=
  ⟨fun _ => judgeFrame_wire, fun _ _ => judgeFrame_eq_some⟩

/-! ## Response reads (R181) -/

theorem exec_responseRead_heard {s : State} {h : HostId} {lasted : Nat} (hears : s.hears h lasted = true) (part : ReadPart) :
    exec (.responseRead ⟨h, lasted⟩ part) s = .next (s.updPort h fun p => p.reads part) :=
  congrArg Host.Outcome.next (State.onPort_of_hearing _ _ _ _ hears)

theorem State.updPort_self (s : State) (h : HostId) : (s.updPort h fun p => p) = s := by
  change { s with hosts := s.hosts.set h.val s.hosts[h.val] } = s
  simp

/-- The bytes delivered are those captured and 0x00 behind them (R181). -/
theorem delivered_getElem? (bytes : List Byte) {n i : Nat} (hi : i < n) :
    ((bytes ++ List.replicate n 0).take n)[i]? = some ((bytes[i]?).getD 0) := by
  rw [List.getElem?_take_of_lt hi]
  by_cases inside : i < bytes.length
  · simp [List.getElem?_append_left inside, inside]
  · have behind : bytes.length ≤ i := Nat.not_lt.1 inside
    rw [List.getElem?_append_right behind, List.getElem?_replicate_of_lt (by omega), List.getElem?_eq_none behind]
    rfl

/-- The frame check of three zero bytes, which an EMPTY and a PENDING slot send (R204). -/
theorem crc8_three_zeros : crc8 [0, 0, 0] = 0x2B := by decide +kernel

theorem Port.readBytes_empty {p : Port} (empty : p.slot = .empty) : p.readBytes = [0x00, 0x00, 0x00, 0x00, 0x2B] := by
  rw [Port.readBytes, empty]
  change [_, _, _, _, crc8 [0, 0, 0]] = _
  rw [crc8_three_zeros]
  rfl

theorem Port.readBytes_pending {p : Port} (pending : p.slot = .pending) :
    p.readBytes = [if p.discarded then 0x81 else 0x01, 0x00, 0x00, 0x00, 0x2B] := by
  rw [Port.readBytes, pending]
  change [1 ||| boolByte p.discarded <<< 7, _, _, _, crc8 [0, 0, 0]] = _
  rw [crc8_three_zeros]
  cases p.discarded <;> rfl

theorem Port.readBytes_ready {p : Port} {r : Response} (ready : p.slot = .ready r) :
    p.readBytes = [if r.discarded then 0x82 else 0x02, r.status.code, r.exch, byteOf r.payload.length] ++
      r.payload ++ [crc8 ([r.status.code, r.exch, byteOf r.payload.length] ++ r.payload)] := by
  rw [Port.readBytes, ready]
  cases hd : r.discarded <;> simp [responseBytes, boolByte, hd]

/-! ## A recovery attempt and the ports (R185) -/

theorem State.answerRestart_host (s : State) (x : LaneId) (k : Restart) (st : Status) (g : HostId) :
    (s.answerRestart x k st).host g =
      if k.live = true ∧ g = k.caller then
        { s.host g with port := (s.host g).port.storePending k.exch k.check ⟨st, [laneByte x, laneModeByte (s.lane x).mode]⟩ }
      else s.host g := by
  unfold State.answerRestart
  cases k.live with
  | false => simp
  | true =>
    simp only [if_true, true_and, State.updPort_host]
    split
    · next e => rw [e]
    · rfl

theorem State.laneFault_port (s : State) (x : LaneId) (g : HostId) : ((s.laneFault x).host g).port = (s.host g).port := by
  unfold State.laneFault
  rw [(State.tellAttached_only _ x _).port]
  split
  · exact s.endRun_keeps x _ _ _ (fun s => s.faultSearch_only x) _ (hostLaw_fixed (·.port) _ (by simp) (by simp))
      (fun c hc => by
        rw [← hc, HostCtx.endRun]
        dsimp only
        split
        · rfl
        · simp) g rfl
  · rw [(State.faultSearch_only _ x).port, State.updLane_host]

/-- The end of a recovery sequence reaches the port of a live restart's caller and no other (R114, R115, R185). -/
theorem State.recoveryEnd_port (s : State) (x : LaneId) (r : Recovery) (ok : Bool) (g : HostId) :
    (((s.recoveryEnd x r ok).host g).port = (s.host g).port
        ∧ ∀ k, (s.lane x).restart = some k → k.live = true → k.caller ≠ g)
      ∨ ∃ k a, (s.lane x).restart = some k ∧ k.live = true ∧ k.caller = g
        ∧ ((s.recoveryEnd x r ok).host g).port = (s.host g).port.storePending k.exch k.check a := by
  obtain ⟨u, hu, end_eq⟩ := s.recoveryEnd_cases x r ok
  have port : (u.host g).port = (s.host g).port := by rw [hu.port, State.updLane_host]
  rw [end_eq]
  cases hk : (s.lane x).restart with
  | none =>
    refine .inl ⟨?_, by simp⟩
    cases ok
    · exact (u.laneFault_port x g).trans port
    · simpa using port
  | some k =>
    have answered (v : State) (st : Status) (hv : (v.host g).port = (s.host g).port) :
        (((v.answerRestart x k st).host g).port = (s.host g).port ∧ ∀ k', some k = some k' → k'.live = true → k'.caller ≠ g)
          ∨ ∃ k' a, some k = some k' ∧ k'.live = true ∧ k'.caller = g
            ∧ ((v.answerRestart x k st).host g).port = (s.host g).port.storePending k'.exch k'.check a := by
      rw [State.answerRestart_host]
      by_cases called : k.live = true ∧ g = k.caller
      · exact .inr ⟨k, _, rfl, called.1, called.2.symm, by rw [if_pos called, hv]⟩
      · refine .inl ⟨by rw [if_neg called, hv], ?_⟩
        rintro _ ⟨⟩ live rfl
        exact called ⟨live, rfl⟩
    cases ok
    · refine answered _ _ ?_
      rw [(State.faultSearch_only _ x).port, State.updLane_host, port]
    · refine answered _ _ ?_
      rw [(State.tellAttached_only _ x _).port, State.updLane_host, port]

theorem State.recoveryTry_captured (s : State) (x : LaneId) (r : Recovery) (o : RecoveryObs) (g : HostId) :
    ((s.recoveryTry x r o).host g).port.captured = (s.host g).port.captured := by
  have ends (r : Recovery) (ok : Bool) : ((s.recoveryEnd x r ok).host g).port.captured = (s.host g).port.captured := by
    rcases s.recoveryEnd_port x r ok g with ⟨same, _⟩ | ⟨k, a, _, _, _, stored⟩
    · rw [same]
    · rw [stored, Port.storePending]
  rcases s.recoveryTry_cases x r o with ⟨_, e⟩ | ⟨_, _, e⟩ | ⟨_, _, e⟩
  · rw [e, ends]
  · rw [e, ends]
  · rw [e, State.updLane_host]

theorem State.recoveryNext_captured (s : State) (x : LaneId) (o : RecoveryObs) (g : HostId) :
    ((s.recoveryNext x o).host g).port.captured = (s.host g).port.captured := by
  unfold State.recoveryNext
  split
  · split
    · exact s.recoveryTry_captured x _ o g
    · rfl
  · rfl

/-- Settles O6: the capture by what the slot holds, the delivery by what was captured; a recovery attempt leaves the capture. -/
theorem responseReadsDeliverTheSlot : Obligations.ResponseReadsDeliverTheSlot := by
  refine ⟨fun s h lasted hears => ⟨fun empty => ?_, fun pending => ?_, fun r ready => ?_, fun bytes n captured => ?_,
    fun n none => ?_⟩, fun s x o => ?_⟩
  · rw [exec_responseRead_heard hears]
    exact congrArg Host.Outcome.next (State.updPort_congr (by simp only [Port.reads, Port.capture, Port.readBytes_empty empty]))
  · rw [exec_responseRead_heard hears]
    exact congrArg Host.Outcome.next (State.updPort_congr (by
      simp only [Port.reads, Port.capture, Port.readBytes_pending pending]))
  · rw [exec_responseRead_heard hears]
    exact congrArg Host.Outcome.next (State.updPort_congr (by simp only [Port.reads, Port.capture, Port.readBytes_ready ready]))
  · refine ⟨(bytes ++ List.replicate n 0).take n, ?_, by simp, fun i hi => delivered_getElem? bytes hi⟩
    rw [exec_responseRead_heard hears]
    exact congrArg Host.Outcome.next (State.updPort_congr (by simp only [Port.reads, Port.deliver, captured]))
  · rw [exec_responseRead_heard hears]
    have same : (s.updPort h fun p => p.reads (.release n)) = s.updPort h fun p => p :=
      State.updPort_congr (by simp only [Port.reads, Port.deliver, none])
    rw [same, State.updPort_self]
  · refine ⟨s.live (·.recoveryNext x o), rfl, fun h => ?_⟩
    rcases s.live_cases (·.recoveryNext x o) with e | ⟨_, e⟩
    · rw [e]
    · rw [e, State.recoveryNext_captured]

end Sys2Proof.Machine
end

section
/-! PROOFS. Record formats (chapter 12): the SUBMIT payload and the descriptor, and the configurable fields of a table entry. -/

namespace Sys2Proof.Machine

/-! ## One value in one byte (R205, R206) -/

theorem toNat_byteOf {n : Nat} (fits : n < 256) : (byteOf n).toNat = n := by
  simp only [byteOf, BitVec.toNat_ofNat]
  omega

theorem eq_byteOf_of_targetOfByte {b : Byte} {t : TargetId} (read : targetOfByte b = some t) : b = byteOf t.val := by
  simp only [targetOfByte, Option.dite_none_right_eq_some, Option.some.injEq] at read
  obtain ⟨_, rfl⟩ := read
  exact (byteOf_toNat b).symm

theorem kindOfByte_kindByte (k : Kind) : kindOfByte (kindByte k) = some k := by cases k <;> decide

theorem eq_kindByte_of_kindOfByte {b : Byte} {k : Kind} (read : kindOfByte b = some k) : b = kindByte k := by
  unfold kindOfByte at read
  split_ifs at read with h0 h1 h2 h3 <;> cases read <;> assumption

theorem markOfByte_markByte (m : ChainMark) : markOfByte (markByte m) = some m := by cases m <;> decide

theorem eq_markByte_of_markOfByte {b : Byte} {m : ChainMark} (read : markOfByte b = some m) : b = markByte m := by
  unfold markOfByte at read
  split_ifs at read with h0 h1 h2 h3 <;> cases read <;> assumption

theorem laneOfByte_laneByte (x : LaneId) : laneOfByte (laneByte x) = some x := by cases x <;> decide

theorem eq_laneByte_of_laneOfByte {b : Byte} {x : LaneId} (read : laneOfByte b = some x) : b = laneByte x := by
  unfold laneOfByte at read
  split_ifs at read with h0 h1 <;> cases read <;> assumption

theorem speedOfByte_speedByte (v : Speed) : speedOfByte (speedByte v) = some v := by cases v <;> decide

theorem eq_boolByte_of_boolOfByte {b : Byte} {v : Bool} (read : boolOfByte b = some v) : b = boolByte v := by
  unfold boolOfByte at read
  split_ifs at read with h0 h1 <;> cases read <;> assumption

theorem hostSetOfByte_setWidth (hs : HostSet) : hostSetOfByte (hs.setWidth 8) = some hs := by
  have fits : (hs.setWidth 8).toNat < 16 := by
    simp only [BitVec.toNat_setWidth]
    omega
  rw [hostSetOfByte, if_pos fits]
  congr 1
  apply BitVec.eq_of_toNat_eq
  simp only [BitVec.toNat_setWidth]
  omega

theorem eq_setWidth_of_hostSetOfByte {b : Byte} {hs : HostSet} (read : hostSetOfByte b = some hs) : b = hs.setWidth 8 := by
  simp only [hostSetOfByte, Option.ite_none_right_eq_some, Option.some.injEq] at read
  obtain ⟨fits, rfl⟩ := read
  apply BitVec.eq_of_toNat_eq
  simp only [BitVec.toNat_setWidth]
  omega

/-- Two bytes hold the 16-bit number they spell (R203). -/
theorem be16_ofBe16 (hi lo : Byte) : be16 (BitVec.ofNat 16 (ofBe16 hi lo)) = [hi, lo] := by
  have value : (BitVec.ofNat 16 (ofBe16 hi lo)).toNat = hi.toNat * 256 + lo.toNat := by
    simp only [ofBe16, BitVec.toNat_ofNat]
    omega
  have high : (BitVec.ofNat 16 (ofBe16 hi lo)).extractLsb' 8 8 = hi := by
    apply BitVec.eq_of_toNat_eq
    rw [BitVec.extractLsb'_toNat, value, Nat.shiftRight_eq_div_pow]
    omega
  have low : (BitVec.ofNat 16 (ofBe16 hi lo)).extractLsb' 0 8 = lo := by
    apply BitVec.eq_of_toNat_eq
    rw [BitVec.extractLsb'_toNat, value]
    omega
  rw [be16, high, low]

theorem ofBe16_lt (hi lo : Byte) : ofBe16 hi lo < 65536 := by
  simp only [ofBe16]
  omega

/-- Three yes-or-no bits in one byte are read back (R207). -/
theorem flagBits (a b c : Bool) :
    let flags := boolByte a ||| (boolByte b <<< 1) ||| (boolByte c <<< 2)
    flags.toNat < 8 ∧ flags.getLsbD 0 = a ∧ flags.getLsbD 1 = b ∧ flags.getLsbD 2 = c := by
  cases a <;> cases b <;> cases c <;> decide

/-- A byte below 8 is made up of its three lowest bits (R207). -/
theorem flagByte_of_bits {b : Byte} (defined : b.toNat < 8) :
    boolByte (b.getLsbD 0) ||| (boolByte (b.getLsbD 1) <<< 1) ||| (boolByte (b.getLsbD 2) <<< 2) = b :=
  rightsByte_of_bits (r := ⟨b.getLsbD 0, b.getLsbD 1, b.getLsbD 2, 0, 0⟩) defined rfl rfl rfl

/-! ## The descriptor (R25, R26) -/

theorem lengths_le_of_fit {k : Kind} {w r : Nat} (fit : lengthsFit k w r = true) : w ≤ 32 ∧ r ≤ 32 := by
  cases k <;> simp only [lengthsFit, decide_eq_true_eq] at fit <;> omega

theorem parseDescriptor_cons (tag target kind mark cls flags whi wlo rl w : Byte) (data : List Byte) :
    parseDescriptor (tag :: target :: kind :: mark :: cls :: flags :: whi :: wlo :: rl :: w :: data) =
      if data.length = w.toNat ∧ cls.toNat ≤ 3 ∧ flags.toNat < 8 then
        (targetOfByte target).bind fun t => (kindOfByte kind).bind fun k => (markOfByte mark).bind fun m =>
          if lengthsFit k w.toNat rl.toNat then
            some { tag := tag, target := t, kind := k, mark := m, cls := cls.toNat, requireLease := flags.getLsbD 0,
                   noWait := flags.getLsbD 1, noRetry := flags.getLsbD 2, waitLimit := ofBe16 whi wlo, readLen := rl.toNat,
                   writeData := data }
          else none
      else none := by
  rw [parseDescriptor]
  congr 1
  cases targetOfByte target with
  | none => rfl
  | some t => cases kindOfByte kind with
    | none => rfl
    | some k => cases markOfByte mark <;> rfl

theorem parseDescriptor_toBytes {d : Descriptor} (inRange : d.inRange = true) :
    parseDescriptor (RawDescriptor.toBytes d.raw) = some d := by
  simp only [Descriptor.inRange, Bool.and_eq_true, decide_eq_true_eq] at inRange
  obtain ⟨⟨class_le, wait_lt⟩, fit⟩ := inRange
  obtain ⟨write_le, read_le⟩ := lengths_le_of_fit fit
  obtain ⟨flags_lt, lease, wait, retry⟩ := flagBits d.requireLease d.noWait d.noRetry
  have class_back : (byteOf d.cls).toNat = d.cls := toNat_byteOf (by omega)
  have write_back : (byteOf d.writeData.length).toNat = d.writeData.length := toNat_byteOf (by omega)
  have read_back : (byteOf d.readLen).toNat = d.readLen := toNat_byteOf (by omega)
  have wait_back : ofBe16 ((BitVec.ofNat 16 d.waitLimit).extractLsb' 8 8) ((BitVec.ofNat 16 d.waitLimit).extractLsb' 0 8)
      = d.waitLimit := by
    rw [ofBe16_be16, BitVec.toNat_ofNat, Nat.mod_eq_of_lt wait_lt]
  simp only [RawDescriptor.toBytes, Descriptor.raw, be16, List.cons_append, List.nil_append]
  rw [parseDescriptor_cons, if_pos ⟨write_back.symm, class_back.le.trans class_le, flags_lt⟩, targetOfByte_byteOf,
    kindOfByte_kindByte, markOfByte_markByte]
  simp only [Option.bind_some]
  rw [write_back, read_back, class_back, wait_back, lease, wait, retry, if_pos fit]

theorem parseDescriptor_eq_some {p : List Byte} {d : Descriptor} (parsed : parseDescriptor p = some d) :
    d.inRange = true ∧ p = RawDescriptor.toBytes d.raw := by
  obtain ⟨tag, target, kind, mark, cls, flags, whi, wlo, rl, w, data, rfl⟩ : ∃ tag target kind mark cls flags whi wlo rl w data,
      p = tag :: target :: kind :: mark :: cls :: flags :: whi :: wlo :: rl :: w :: data := by
    unfold parseDescriptor at parsed
    split at parsed
    · exact ⟨_, _, _, _, _, _, _, _, _, _, _, rfl⟩
    · cases parsed
  simp only [parseDescriptor_cons, Option.ite_none_right_eq_some, Option.bind_eq_some_iff, Option.some.injEq] at parsed
  obtain ⟨⟨long, class_le, flags_lt⟩, t, ht, k, hk, m, hm, fit, rfl⟩ := parsed
  refine ⟨?_, ?_⟩
  · simpa [Descriptor.inRange, class_le, ofBe16_lt, long] using fit
  · simp only [RawDescriptor.toBytes, Descriptor.raw, be16_ofBe16, flagByte_of_bits flags_lt, long, byteOf_toNat,
      ← eq_byteOf_of_targetOfByte ht, ← eq_kindByte_of_kindOfByte hk, ← eq_markByte_of_markOfByte hm, List.cons_append,
      List.nil_append]

/-- Settles O10. -/
theorem descriptorBytesRoundTrip : Obligations.DescriptorBytesRoundTrip :=
  ⟨fun _ => parseDescriptor_toBytes, fun _ _ => parseDescriptor_eq_some⟩

/-! ## The configurable fields (R2, R13) -/

theorem RawSettings.ofBytes_toBytes (r : RawSettings) : RawSettings.ofBytes (RawSettings.toBytes r) = some r := rfl

theorem RawSettings.ofBytes_eq_some {p : List Byte} {r : RawSettings} (read : RawSettings.ofBytes p = some r) :
    p = RawSettings.toBytes r := by
  unfold RawSettings.ofBytes at read
  split at read
  · cases read
    rfl
  · cases read

theorem RawSettings.check_eq (r : RawSettings) : RawSettings.check r =
    if 0x08 ≤ r.address.toNat ∧ r.address.toNat ≤ 0x77 ∧ r.retryBudget.toNat ≤ 7 ∧ r.threshold.toNat ≤ 15
        ∧ 1 ≤ r.stretch.toNat ∧ r.stretch.toNat ≤ 250 then
      (laneOfByte r.lane).bind fun x => (hostSetOfByte r.access).bind fun acc => (hostSetOfByte r.subscribers).bind fun sub =>
        (boolOfByte r.retryOnNack).bind fun rn => (boolOfByte r.sweepMember).bind fun sm =>
          (boolOfByte r.alertClear).bind fun ac =>
            some { lane := x, address := r.address.setWidth 7, access := acc, subscribers := sub
                   retryBudget := r.retryBudget.toNat, retryOnNack := rn, threshold := r.threshold.toNat
                   stretch := r.stretch.toNat, sweepMember := sm, alertReg := r.alertReg, alertClear := ac }
    else none := by
  rw [RawSettings.check]
  congr 1
  cases laneOfByte r.lane with
  | none => rfl
  | some x => cases hostSetOfByte r.access with
    | none => rfl
    | some acc => cases hostSetOfByte r.subscribers with
      | none => rfl
      | some sub => cases boolOfByte r.retryOnNack with
        | none => rfl
        | some rn => cases boolOfByte r.sweepMember with
          | none => rfl
          | some sm => cases boolOfByte r.alertClear <;> rfl

theorem setWidth_address (a : BitVec 7) : (a.setWidth 8).setWidth 7 = a := by
  apply BitVec.eq_of_toNat_eq
  simp only [BitVec.toNat_setWidth]
  omega

theorem setWidth_addressByte {b : Byte} (le : b.toNat ≤ 0x77) : (b.setWidth 7).setWidth 8 = b := by
  apply BitVec.eq_of_toNat_eq
  simp only [BitVec.toNat_setWidth]
  omega

/-- The fields in range as they travel are taken as they are. -/
theorem RawSettings.check_of_inRange {c : Settings} (inRange : c.inRange = true) :
    RawSettings.check ⟨laneByte c.lane, c.address.setWidth 8, c.access.setWidth 8, c.subscribers.setWidth 8,
      byteOf c.retryBudget, boolByte c.retryOnNack, byteOf c.threshold, byteOf c.stretch, boolByte c.sweepMember, c.alertReg,
      boolByte c.alertClear⟩ = some c := by
  obtain ⟨low, high, budget, threshold, held, stretch⟩ := of_decide_eq_true inRange
  have address : (c.address.setWidth 8).toNat = c.address.toNat := by
    simp only [BitVec.toNat_setWidth]
    omega
  have budget_back : (byteOf c.retryBudget).toNat = c.retryBudget := toNat_byteOf (by omega)
  have threshold_back : (byteOf c.threshold).toNat = c.threshold := toNat_byteOf (by omega)
  have stretch_back : (byteOf c.stretch).toNat = c.stretch := toNat_byteOf (by omega)
  rw [RawSettings.check_eq]
  simp only [address, budget_back, threshold_back, stretch_back, laneOfByte_laneByte, hostSetOfByte_setWidth,
    boolOfByte_boolByte, Option.bind_some, setWidth_address]
  exact if_pos ⟨low, high, budget, threshold, held, stretch⟩

/-- What is taken is in range, and travels as these bytes. -/
theorem RawSettings.check_eq_some {r : RawSettings} {c : Settings} (checked : RawSettings.check r = some c) :
    c.inRange = true ∧ RawSettings.toBytes r = c.toBytes := by
  simp only [RawSettings.check_eq, Option.ite_none_right_eq_some, Option.bind_eq_some_iff, Option.some.injEq] at checked
  obtain ⟨⟨low, high, budget, threshold, held, stretch⟩, x, hx, acc, hacc, sub, hsub, rn, hrn, sm, hsm, ac, hac, rfl⟩ := checked
  have address : (r.address.setWidth 7).toNat = r.address.toNat := by
    simp only [BitVec.toNat_setWidth]
    omega
  refine ⟨decide_eq_true ⟨low.trans address.ge, address.le.trans high, budget, threshold, held, stretch⟩, ?_⟩
  simp only [RawSettings.toBytes, Settings.toBytes, setWidth_addressByte high, byteOf_toNat, ← eq_laneByte_of_laneOfByte hx,
    ← eq_setWidth_of_hostSetOfByte hacc, ← eq_setWidth_of_hostSetOfByte hsub, ← eq_boolByte_of_boolOfByte hrn,
    ← eq_boolByte_of_boolOfByte hsm, ← eq_boolByte_of_boolOfByte hac]

/-- Settles O11: eleven bytes are the raw fields, and the check keeps the values in range. -/
theorem settingsBytesRoundTrip : Obligations.SettingsBytesRoundTrip := by
  refine ⟨fun c inRange => ?_, fun p c taken => ?_⟩
  · exact RawSettings.check_of_inRange inRange
  · obtain ⟨r, read, checked⟩ := Option.bind_eq_some_iff.1 taken
    obtain ⟨inRange, bytes⟩ := RawSettings.check_eq_some checked
    exact ⟨inRange, (RawSettings.ofBytes_eq_some read).trans bytes⟩

end Sys2Proof.Machine
end

section
/-! PROOFS. What the shared operations leave of each host and of each table entry (chapters 01 and 07): notices, ended work,
quarantine, and the counting of faults. -/

namespace Sys2Proof.Machine

/-! ## Notices and ended work, host by host -/

theorem mem_allHosts (h : HostId) : h ∈ allHosts := by revert h; decide

theorem mem_allTargets (t : TargetId) : t ∈ allTargets := List.mem_finRange t

theorem State.OnlyHosts.stamp {s t : State} (only : s.OnlyHosts t) : t.stamp = s.stamp := by
  rw [State.stamp, State.stamp, only.elapsed]

theorem State.OnlyTables.stamp {s t : State} (only : s.OnlyTables t) : t.stamp = s.stamp := by
  rw [State.stamp, State.stamp, only.elapsed]

theorem State.OnlyRecords.stamp {s t : State} (only : s.OnlyRecords t) : t.stamp = s.stamp := by
  rw [State.stamp, State.stamp, only.elapsed]

/-- A fold that changes each of these hosts once, by its own change. -/
theorem foldl_hosts {F : State → HostId → State} {change : Stamp → HostId → HostCtx → HostCtx}
    (own : ∀ u h g, (F u h).host g = if g = h then change u.stamp h (u.host h) else u.host g)
    (time : ∀ u h, (F u h).stamp = u.stamp) {hs : List HostId} (once : hs.Nodup) (s : State) (g : HostId) :
    (hs.foldl F s).host g = if g ∈ hs then change s.stamp g (s.host g) else s.host g := by
  induction hs generalizing s with
  | nil => simp
  | cons h hs ih =>
    obtain ⟨notIn, once⟩ := List.nodup_cons.1 once
    rw [List.foldl_cons, ih once, own, time]
    by_cases first : g = h
    · subst first
      simp [notIn]
    · simp [first]

theorem State.notify_host (s : State) (h : HostId) (k : NoticeKind) (subj : Subject) (d : Byte) (g : HostId) :
    (s.notify h k subj d).host g = if g = h then (s.host h).takeNotice k subj d s.stamp else s.host g :=
  State.updHost_host s h g _

theorem State.notifyAll_host (s : State) (who : HostId → Bool) (k : NoticeKind) (subj : Subject) (d : Byte) (g : HostId) :
    (s.notifyAll who k subj d).host g = if who g then (s.host g).takeNotice k subj d s.stamp else s.host g := by
  rw [State.notifyAll, foldl_hosts (change := fun now h c => if who h then c.takeNotice k subj d now else c) _ _ (by decide),
    if_pos (mem_allHosts g)]
  · intro u h g
    cases named : who h
    · simp only [Bool.false_eq_true, if_false]
      split
      · next e => rw [e]
      · rfl
    · exact u.notify_host h k subj d g
  · intro u h
    split
    · exact (u.notify_only h k subj d).rest.stamp
    · rfl

theorem State.endWork_host (s : State) (h : HostId) (hit : List SubEntry → Bool) (st : SubEntry → CStatus) (g : HostId) :
    (s.endWork h hit st).host g = if g = h then (s.host h).endWork hit st s.stamp else s.host g :=
  State.updHost_host s h g _

theorem State.endWorkAll_host (s : State) (hit : List SubEntry → Bool) (st : SubEntry → CStatus) (g : HostId) :
    (s.endWorkAll hit st).host g = (s.host g).endWork hit st s.stamp := by
  rw [State.endWorkAll, foldl_hosts (change := fun now _ c => c.endWork hit st now) _ _ (by decide), if_pos (mem_allHosts g)]
  · exact fun u h g => u.endWork_host h hit st g
  · exact fun u h => (u.endWork_only h hit st).rest.stamp

theorem State.tellSubscribers_host (s : State) (t : TargetId) (k : NoticeKind) (d : Byte) (g : HostId) :
    (s.tellSubscribers t k d).host g =
      if hostIn (s.entry t).cfg.subscribers g then (s.host g).takeNotice k (.target t) d s.stamp else s.host g :=
  s.notifyAll_host _ k _ d g

theorem State.faultSearch_host (s : State) (x : LaneId) (g : HostId) :
    (s.faultSearch x).host g = (s.host g).endWork (s.onLane x) (fun _ => .laneFaulted) s.stamp :=
  s.endWorkAll_host _ _ g

theorem State.tellAttached_host (s : State) (x : LaneId) (k : NoticeKind) (g : HostId) :
    (s.tellAttached x k).host g =
      if (s.host g).attached then (s.host g).takeNotice k (.lane x) 0 s.stamp else s.host g :=
  s.notifyAll_host _ k _ 0 g

/-! ## Quarantine (R8, R9) -/

theorem State.quarantine_entry (s : State) (t v : TargetId) :
    (s.quarantine t).entry v = if v = t then { s.entry t with state := .quarantined } else s.entry v := by
  rw [State.quarantine, (State.endWorkAll_only _ _ _).rest.entry, (State.tellSubscribers_only _ _ _ _).rest.entry,
    State.updEntry_entry]

theorem State.quarantine_host (s : State) (t : TargetId) (g : HostId) :
    (s.quarantine t).host g = s.hostAfterQuarantine t g := by
  rw [State.quarantine, State.endWorkAll_host, State.tellSubscribers_host, (State.tellSubscribers_only _ _ _ _).rest.stamp]
  simp only [State.updEntry_entry_self]
  rfl

/-! ## The final statuses (R5, R6, R11) -/

/-- The count after a fault is judged against the threshold in use (R6). -/
def TableEntry.countedFaults (e : TableEntry) (threshold : Nat) : Nat :=
  if threshold = 0 ∨ e.faults = threshold then e.faults else e.faults + 1

theorem TableEntry.tallied_fault (e : TableEntry) {st : CStatus} (fault : st = .addrNack ∨ st = .stretchTimeout) (probe : Bool)
    (threshold : Nat) : e.tallied st probe threshold =
      { e with
        faults := min (e.countedFaults threshold) e.cfg.threshold
        state := if threshold ≠ 0 ∧ e.countedFaults threshold = threshold ∧ e.state = .online then .quarantined else e.state } := by
  rcases fault with rfl | rfl <;> rfl

theorem State.countFault_eq (s : State) (t : TargetId) (threshold : Nat) :
    s.countFault t threshold =
      (if threshold ≠ 0 ∧ (s.entry t).countedFaults threshold = threshold ∧ (s.entry t).state = .online then
        (s.updEntry t fun e => { e with faults := (s.entry t).countedFaults threshold }).quarantine t
      else s.updEntry t fun e => { e with faults := (s.entry t).countedFaults threshold }).updEntry t
        fun e => { e with faults := min e.faults e.cfg.threshold } := rfl

theorem State.countFault_entry (s : State) (t : TargetId) (threshold : Nat) (v : TargetId) :
    (s.countFault t threshold).entry v =
      if v = t then (s.entry t).tallied .addrNack false threshold else s.entry v := by
  rw [State.countFault_eq, TableEntry.tallied_fault _ (.inl rfl), State.updEntry_entry]
  by_cases same : v = t
  · subst same
    by_cases quarantined : threshold ≠ 0 ∧ (s.entry v).countedFaults threshold = threshold ∧ (s.entry v).state = .online
    · simp only [if_pos quarantined, if_true, State.quarantine_entry, State.updEntry_entry_self]
    · simp only [if_neg quarantined, if_true, State.updEntry_entry_self]
  · simp only [if_neg same]
    split
    · rw [State.quarantine_entry, if_neg same, State.updEntry_entry_ne _ _ same]
    · rw [State.updEntry_entry_ne _ _ same]

theorem State.countFault_host (s : State) (t : TargetId) (threshold : Nat) (g : HostId) :
    (s.countFault t threshold).host g =
      if threshold ≠ 0 ∧ (s.entry t).countedFaults threshold = threshold ∧ (s.entry t).state = .online then
        s.hostAfterQuarantine t g
      else s.host g := by
  rw [State.countFault_eq, State.updEntry_host]
  split
  · rw [State.quarantine_host]
    simp only [State.hostAfterQuarantine, HostCtx.afterQuarantine, State.updEntry_entry_self, State.updEntry_host]
    rfl
  · rfl

theorem State.probeRestore_entry (s : State) (t v : TargetId) : (s.probeRestore t).entry v =
    if v = t ∧ (s.entry t).state = .quarantined then { s.entry t with state := .online } else s.entry v := by
  unfold State.probeRestore
  by_cases quarantined : (s.entry t).state = .quarantined
  · rw [if_pos quarantined, (State.tellSubscribers_only _ _ _ _).rest.entry, State.updEntry_entry]
    simp only [quarantined, and_true]
  · rw [if_neg quarantined, if_neg fun both => quarantined both.2]

theorem State.probeRestore_host (s : State) (t : TargetId) (g : HostId) : (s.probeRestore t).host g =
    if (s.entry t).state = .quarantined ∧ hostIn (s.entry t).cfg.subscribers g = true then
      (s.host g).takeNotice .restored (.target t) 0 s.stamp
    else s.host g := by
  unfold State.probeRestore
  by_cases quarantined : (s.entry t).state = .quarantined
  · rw [if_pos quarantined, State.tellSubscribers_host, State.updEntry_entry_self]
    simp only [quarantined, true_and]
    rfl
  · rw [if_neg quarantined, if_neg fun both => quarantined both.1]

theorem State.applyStatus_ok (s : State) (t : TargetId) (probe : Bool) (threshold : Nat) :
    s.applyStatus t .ok probe threshold =
      if probe then (s.updEntry t fun e => { e with faults := 0 }).probeRestore t
      else s.updEntry t fun e => { e with faults := 0 } := rfl

theorem State.applyStatus_fault (s : State) (t : TargetId) {st : CStatus} (fault : st = .addrNack ∨ st = .stretchTimeout)
    (probe : Bool) (threshold : Nat) : s.applyStatus t st probe threshold = s.countFault t threshold := by
  rcases fault with rfl | rfl <;> rfl

theorem State.applyStatus_other (s : State) (t : TargetId) {st : CStatus} (notOk : st ≠ .ok) (notAddr : st ≠ .addrNack)
    (notStretch : st ≠ .stretchTimeout) (probe : Bool) (threshold : Nat) : s.applyStatus t st probe threshold = s := by
  cases st <;> first | rfl | contradiction

theorem TableEntry.tallied_other (e : TableEntry) {st : CStatus} (notOk : st ≠ .ok) (notAddr : st ≠ .addrNack)
    (notStretch : st ≠ .stretchTimeout) (probe : Bool) (threshold : Nat) : e.tallied st probe threshold = e := by
  cases st <;> first | rfl | contradiction

/-- The three ways of a final status: OK, a status that counts a fault, and the others (R5). -/
theorem CStatus.tally_cases (st : CStatus) : st = .ok ∨ (st = .addrNack ∨ st = .stretchTimeout)
    ∨ (st ≠ .ok ∧ st ≠ .addrNack ∧ st ≠ .stretchTimeout) := by
  cases st <;> simp

/-- A final status does to its entry what `tallied` says, and nothing to the others. -/
theorem State.applyStatus_entry (s : State) (t : TargetId) (st : CStatus) (probe : Bool) (threshold : Nat) (v : TargetId) :
    (s.applyStatus t st probe threshold).entry v =
      if v = t then (s.entry t).tallied st probe threshold else s.entry v := by
  rcases st.tally_cases with rfl | fault | ⟨notOk, notAddr, notStretch⟩
  · rw [State.applyStatus_ok]
    by_cases same : v = t
    · subst same
      cases probe
      · simp [TableEntry.tallied]
      · by_cases quarantined : (s.entry v).state = .quarantined <;>
          simp [TableEntry.tallied, State.probeRestore_entry, quarantined]
    · cases probe <;> simp [State.probeRestore_entry, State.updEntry_entry_ne, same]
  · rw [s.applyStatus_fault t fault, State.countFault_entry, TableEntry.tallied_fault _ (.inl rfl),
      TableEntry.tallied_fault _ fault]
  · rw [s.applyStatus_other t notOk notAddr notStretch, TableEntry.tallied_other _ notOk notAddr notStretch]
    split
    · next same => rw [same]
    · rfl

/-- What a final status does to each host: the quarantine or the restore that it brings (R6, R8, R11). -/
theorem State.applyStatus_host (s : State) (t : TargetId) (st : CStatus) (probe : Bool) (threshold : Nat) (g : HostId) :
    (s.applyStatus t st probe threshold).host g = s.hostAfterStatus t st probe threshold g := by
  rw [State.hostAfterStatus, HostCtx.afterStatus]
  rcases st.tally_cases with rfl | fault | ⟨notOk, notAddr, notStretch⟩
  · rw [State.applyStatus_ok]
    cases probe
    · cases online : (s.entry t).state <;> simp [TableEntry.tallied, online]
    · cases online : (s.entry t).state <;> simp [TableEntry.tallied, online, State.probeRestore_host, State.stamp]
  · rw [s.applyStatus_fault t fault, State.countFault_host, TableEntry.tallied_fault _ fault]
    by_cases quarantined : threshold ≠ 0 ∧ (s.entry t).countedFaults threshold = threshold ∧ (s.entry t).state = .online
    · rw [if_pos quarantined, if_pos ⟨quarantined.2.2, by rw [if_pos quarantined]⟩]
      rfl
    · have kept : ¬((s.entry t).state = .online ∧ (s.entry t).state = .quarantined) := by
        rintro ⟨online, q⟩
        rw [online] at q
        cases q
      have unrestored : ¬((s.entry t).state = .quarantined ∧ (s.entry t).state = .online
          ∧ hostIn (s.entry t).cfg.subscribers g = true) := fun all => kept ⟨all.2.1, all.1⟩
      simp only [if_neg quarantined, if_neg kept, if_neg unrestored]
  · rw [s.applyStatus_other t notOk notAddr notStretch, TableEntry.tallied_other _ notOk notAddr notStretch]
    cases (s.entry t).state <;> simp

/-- Settles O28: the counting by `countFault_entry` and `countFault_host`, a final status by `applyStatus_entry` and
`applyStatus_host`. -/
theorem faultsAreCounted : Obligations.FaultsAreCounted := by
  refine ⟨?_, ?_⟩
  · intro s t threshold e n u
    have entry : u.entry t = e.tallied .addrNack false threshold := by
      rw [State.countFault_entry, if_pos rfl]
    rw [entry, TableEntry.tallied_fault _ (.inl rfl)]
    refine ⟨rfl, rfl, rfl, rfl, fun v other => by rw [State.countFault_entry, if_neg other], fun quiet => ?_,
      fun inUse reached online h => ?_⟩
    · refine State.hosts_ext fun g => ?_
      rw [State.countFault_host, if_neg]
      rintro ⟨inUse, reached, online⟩
      rcases quiet with off | below | notOnline
      · exact inUse off
      · exact below reached
      · exact notOnline online
    · rw [State.countFault_host, if_pos ⟨inUse, reached, online⟩]
  · intro s t st probe threshold u
    refine ⟨?_, ?_, ?_⟩
    · exact fun fault => s.applyStatus_fault t fault probe threshold
    · exact fun notOk notAddr notStretch => s.applyStatus_other t notOk notAddr notStretch probe threshold
    · rintro rfl
      have entry : u.entry t = (s.entry t).tallied .ok probe threshold := by rw [State.applyStatus_entry, if_pos rfl]
      have host (h : HostId) : u.host h = s.hostAfterStatus t .ok probe threshold h := s.applyStatus_host t .ok probe threshold h
      refine ⟨by rw [entry]; rfl, by rw [entry]; rfl, by rw [entry]; rfl,
        fun v other => by rw [State.applyStatus_entry, if_neg other], ?_, ?_⟩
      · rintro rfl quarantined
        refine ⟨by simp [entry, TableEntry.tallied, quarantined], fun h => ?_⟩
        simp [host, State.hostAfterStatus, HostCtx.afterStatus, TableEntry.tallied, quarantined]
      · intro unchanged
        have state : ((s.entry t).tallied .ok probe threshold).state = (s.entry t).state :=
          if_neg fun both => unchanged.elim (fun off => by simp [off] at both) fun n => n both.2
        refine ⟨by rw [entry, state], State.hosts_ext fun h => ?_⟩
        rw [host, State.hostAfterStatus, HostCtx.afterStatus, state]
        cases (s.entry t).state <;> simp

end Sys2Proof.Machine
end

section
/-! PROOFS. Target leases (chapter 03): what a grant check, the finish of a lease, the end of a touching run and a teardown leave of
each entry and of each host, and what RELEASE, LEASE_REVOKE and LEASE_EXPIRY do. -/

namespace Sys2Proof.Machine

/-! ## The grant check (R54, R55) -/

/-- The head waiter that a grant check grants: the lease is FREE and nothing blocks the head of its wait list. -/
def Lease.grants (l : Lease) (blocked : HostId → Bool) (w : Waiter) (ws : List Waiter) : Prop :=
  l.state = .free ∧ l.waiters = w :: ws ∧ blocked w.host = false

/-- A grant check grants the head waiter or nobody. -/
theorem Lease.grants_cases (l : Lease) (blocked : HostId → Bool) :
    (∃ w ws, l.grants blocked w ws) ∨ ∀ w ws, ¬l.grants blocked w ws := by
  by_cases some : ∃ w ws, l.grants blocked w ws
  · exact .inl some
  · exact .inr fun w ws granted => some ⟨w, ws, granted⟩

theorem Lease.checked_of_grants {l : Lease} {blocked : HostId → Bool} {w : Waiter} {ws : List Waiter}
    (granted : l.grants blocked w ws) (now : Nat) :
    l.checked now blocked = { state := .held w.host, expiry := expiryTick now w.duration, waiters := ws } := by
  obtain ⟨free, waits, clear⟩ := granted
  simp [Lease.checked, free, waits, clear]

theorem Lease.checked_of_none {l : Lease} {blocked : HostId → Bool} (none : ∀ w ws, ¬l.grants blocked w ws) (now : Nat) :
    l.checked now blocked = l := by
  unfold Lease.checked
  split
  · next w ws free waits =>
    cases clear : blocked w.host
    · exact absurd ⟨free, waits, clear⟩ (none w ws)
    · simp
  · rfl

theorem State.grantCheck_of_grants {s : State} {t : TargetId} {w : Waiter} {ws : List Waiter}
    (granted : (s.entry t).lease.grants (s.touchedByOther t) w ws) :
    s.grantCheck t = (s.updLease t fun _ =>
      { state := .held w.host, expiry := expiryTick s.elapsed w.duration, waiters := ws }).notify w.host .leaseGranted
        (.target t) 0 := by
  obtain ⟨free, waits, clear⟩ := granted
  simp [State.grantCheck, free, waits, clear, State.expiry]

theorem State.grantCheck_of_none {s : State} {t : TargetId}
    (none : ∀ w ws, ¬(s.entry t).lease.grants (s.touchedByOther t) w ws) : s.grantCheck t = s := by
  unfold State.grantCheck
  split
  · next w ws free waits =>
    cases clear : s.touchedByOther t w.host
    · exact absurd ⟨free, waits, clear⟩ (none w ws)
    · simp
  · rfl

theorem ite_entry_self (s : State) (t v : TargetId) : (if v = t then s.entry t else s.entry v) = s.entry v := by
  split
  · next same => rw [same]
  · rfl

theorem ite_host_self (s : State) (h g : HostId) : (if g = h then s.host h else s.host g) = s.host g := by
  split
  · next same => rw [same]
  · rfl

theorem State.grantCheck_entry (s : State) (t v : TargetId) : (s.grantCheck t).entry v =
    if v = t then { s.entry t with lease := (s.entry t).lease.checked s.elapsed (s.touchedByOther t) } else s.entry v := by
  rcases (s.entry t).lease.grants_cases (s.touchedByOther t) with ⟨w, ws, granted⟩ | none
  · rw [State.grantCheck_of_grants granted, (State.notify_only _ _ _ _ _).rest.entry, State.updLease_entry,
      Lease.checked_of_grants granted]
  · rw [State.grantCheck_of_none none, Lease.checked_of_none none]
    exact (ite_entry_self s t v).symm

theorem HostCtx.toldGrant_of_not {c : HostCtx} {h : HostId} {t : TargetId} {l l' : Lease} {now : Stamp}
    (notNew : l.state = .held h ∨ l'.state ≠ .held h) : c.toldGrant h t l l' now = c :=
  if_neg fun both => notNew.elim both.1 fun other => other both.2

theorem HostCtx.toldGrant_of_new {c : HostCtx} {h : HostId} {t : TargetId} {l l' : Lease} {now : Stamp}
    (before : l.state ≠ .held h) (after : l'.state = .held h) :
    c.toldGrant h t l l' now = c.takeNotice .leaseGranted (.target t) 0 now :=
  if_pos ⟨before, after⟩

theorem HostCtx.toldGrant_same (c : HostCtx) (h : HostId) (t : TargetId) (l : Lease) (now : Stamp) :
    c.toldGrant h t l l now = c :=
  if_neg fun both => both.1 both.2

theorem State.grantCheck_host (s : State) (t : TargetId) (g : HostId) : (s.grantCheck t).host g =
    (s.host g).toldGrant g t (s.entry t).lease ((s.entry t).lease.checked s.elapsed (s.touchedByOther t)) s.stamp := by
  rcases (s.entry t).lease.grants_cases (s.touchedByOther t) with ⟨w, ws, granted⟩ | none
  · have free : (s.entry t).lease.state ≠ .held g := by simp [granted.1]
    rw [State.grantCheck_of_grants granted, State.notify_host, Lease.checked_of_grants granted]
    by_cases head : g = w.host
    · rw [if_pos head, HostCtx.toldGrant_of_new free (by rw [head]), head]
      rfl
    · rw [if_neg head, HostCtx.toldGrant_of_not (.inr fun e => head (LeaseState.held.inj e).symm)]
      rfl
  · rw [State.grantCheck_of_none none, Lease.checked_of_none none, HostCtx.toldGrant_same]

/-! ## The finish of a lease (R57 to R59) -/

/-- The former holder once its lease of t is told to be FREE: its work that carries REQUIRE_LEASE ends, and it takes LEASE_ENDED unless
it released the lease. -/
def HostCtx.leaseFreed (c : HostCtx) (t : TargetId) (r : EndReason) (now : Stamp) : HostCtx :=
  let searched := c.endWork (fun w => w.any (leaseWork t)) (fun e => if leaseWork t e then .leaseLost else .chainBroken) now
  if r = .released then searched else searched.takeNotice .leaseEnded (.target t) (endReasonByte r) now

theorem State.leaseFree_entry (s : State) (t : TargetId) (h : HostId) (r : EndReason) (v : TargetId) :
    (s.leaseFree t h r).entry v =
      if v = t then { s.entry t with lease := { (s.entry t).lease with state := .free } } else s.entry v := by
  unfold State.leaseFree
  dsimp only
  split
  · rw [(State.endWork_only _ _ _ _).rest.entry, State.updLease_entry]
  · rw [(State.notify_only _ _ _ _ _).rest.entry, (State.endWork_only _ _ _ _).rest.entry, State.updLease_entry]

theorem State.leaseFree_host (s : State) (t : TargetId) (h : HostId) (r : EndReason) (g : HostId) :
    (s.leaseFree t h r).host g = if g = h then (s.host h).leaseFreed t r s.stamp else s.host g := by
  unfold State.leaseFree HostCtx.leaseFreed
  by_cases released : r = .released
  · simp only [released, if_true, State.endWork_host]
    rfl
  · simp only [released, if_false, State.notify_host, State.endWork_host, if_true, (State.endWork_only _ _ _ _).rest.stamp]
    split
    · rfl
    · rfl

theorem State.leaseFinish_entry (s : State) (t : TargetId) (h : HostId) (r : EndReason) (v : TargetId) :
    (s.leaseFinish t h r).entry v =
      if v = t then
        { s.entry t with
          lease := Lease.checked { (s.entry t).lease with state := .free } s.elapsed (s.touchedByOther t) }
      else s.entry v := by
  have other : (s.leaseFree t h r).touchedByOther t = s.touchedByOther t :=
    funext ((s.leaseFree_only t h r).touchedByOther t)
  rw [State.leaseFinish, State.grantCheck_entry, State.leaseFree_entry, State.leaseFree_entry, if_pos rfl, other,
    (s.leaseFree_only t h r).rest.elapsed]
  split <;> rfl

theorem State.leaseFinish_host (s : State) (t : TargetId) (h : HostId) (r : EndReason) (g : HostId) :
    (s.leaseFinish t h r).host g =
      (if g = h then (s.host h).leaseFreed t r s.stamp else s.host g).toldGrant g t { (s.entry t).lease with state := .free }
        (Lease.checked { (s.entry t).lease with state := .free } s.elapsed (s.touchedByOther t)) s.stamp := by
  have other : (s.leaseFree t h r).touchedByOther t = s.touchedByOther t :=
    funext ((s.leaseFree_only t h r).touchedByOther t)
  rw [State.leaseFinish, State.grantCheck_host, State.leaseFree_entry, if_pos rfl, other, State.leaseFree_host,
    (s.leaseFree_only t h r).rest.elapsed, (s.leaseFree_only t h r).rest.stamp]

/-! ## A rule ends a HELD lease (R56) -/

theorem State.leaseEnd_of_touched {s : State} {t : TargetId} {h : HostId} (held : (s.entry t).lease.state = .held h)
    (touched : s.touchedBy t h = true) (r : EndReason) :
    s.leaseEnd t r = s.updLease t fun l => { l with state := .ending h r } := by
  simp [State.leaseEnd, held, touched]

theorem State.leaseEnd_of_untouched {s : State} {t : TargetId} {h : HostId} (held : (s.entry t).lease.state = .held h)
    (untouched : s.touchedBy t h = false) (r : EndReason) : s.leaseEnd t r = s.leaseFinish t h r := by
  simp [State.leaseEnd, held, untouched]

theorem State.leaseEnd_of_not_held {s : State} {t : TargetId} (notHeld : ∀ h, (s.entry t).lease.state ≠ .held h)
    (r : EndReason) : s.leaseEnd t r = s := by
  unfold State.leaseEnd
  split
  · next h held => exact absurd held (notHeld h)
  all_goals rfl

/-! ## The end of a touching run (R54, R57) -/

theorem State.leaseRunEnd_entry (s : State) (g : HostId) (t v : TargetId) : (s.leaseRunEnd g t).entry v =
    if v = t then { s.entry t with lease := (s.entry t).lease.afterRun g s.elapsed (s.touchedByOther t) } else s.entry v := by
  unfold State.leaseRunEnd Lease.afterRun
  cases lease : (s.entry t).lease.state with
  | free => exact s.grantCheck_entry t v
  | held k => exact s.grantCheck_entry t v
  | ending k r =>
    by_cases own : k = g
    · simp only [if_pos own]
      exact s.leaseFinish_entry t k r v
    · simp only [if_neg own]
      exact (ite_entry_self s t v).symm

theorem leaseWork_eq (t : TargetId) : leaseWork t = fun e => decide (e.desc.target = t ∧ e.desc.requireLease = true) := by
  funext e
  simp [leaseWork]

/-- The finish of an ENDING lease in the words of R57 to R59. -/
theorem HostCtx.leaseFreed_eq (c : HostCtx) (t : TargetId) (r : EndReason) (now : Stamp) :
    let flagged (e : SubEntry) : Bool := decide (e.desc.target = t ∧ e.desc.requireLease = true)
    let searched := c.endWork (fun w => w.any flagged) (fun e => if flagged e then .leaseLost else .chainBroken) now
    c.leaseFreed t r now =
      if r = .released then searched else searched.takeNotice .leaseEnded (.target t) (endReasonByte r) now := by
  rw [HostCtx.leaseFreed, leaseWork_eq]

/-- A host takes LEASE_GRANTED by what it held before alone. -/
theorem HostCtx.toldGrant_congr {c : HostCtx} {h : HostId} {t : TargetId} {l k l' : Lease} {now : Stamp}
    (same : l.state = .held h ↔ k.state = .held h) : c.toldGrant h t l l' now = c.toldGrant h t k l' now := by
  simp only [HostCtx.toldGrant, ne_eq, same]

theorem State.leaseRunEnd_host (s : State) (g : HostId) (t : TargetId) (h : HostId) : (s.leaseRunEnd g t).host h =
    (s.host h).afterLeaseRun h g t (s.entry t).lease ((s.entry t).lease.afterRun g s.elapsed (s.touchedByOther t))
      s.stamp := by
  unfold State.leaseRunEnd Lease.afterRun HostCtx.afterLeaseRun
  cases lease : (s.entry t).lease.state with
  | free => exact s.grantCheck_host t h
  | held k => exact s.grantCheck_host t h
  | ending k r =>
    by_cases own : k = g
    · subst own
      simp only [if_true, true_and]
      rw [State.leaseFinish_host,
        HostCtx.toldGrant_congr (l := (s.entry t).lease) (k := { (s.entry t).lease with state := .free }) (by simp [lease])]
      by_cases former : h = k
      · subst former
        simp only [if_true, HostCtx.leaseFreed_eq]
      · simp only [if_neg former]
    · simp only [own, false_and, if_false]
      exact (HostCtx.toldGrant_same _ _ _ _ _).symm

/-! ## A teardown (R64) -/

theorem State.updEntry_updEntry (s : State) (t : TargetId) (f g : TableEntry → TableEntry) :
    (s.updEntry t f).updEntry t g = s.updEntry t fun e => g (f e) := by
  simp [State.updEntry, State.entry]

theorem State.updLease_updLease (s : State) (t : TargetId) (f g : Lease → Lease) :
    (s.updLease t f).updLease t g = s.updLease t fun l => g (f l) :=
  s.updEntry_updEntry t _ _

theorem State.updLease_entry_self (s : State) (t : TargetId) (f : Lease → Lease) :
    (s.updLease t f).entry t = { s.entry t with lease := f (s.entry t).lease } := by
  rw [State.updLease_entry, if_pos rfl]

theorem State.updLease_touchedBy (s : State) (t : TargetId) (f : Lease → Lease) (v : TargetId) (h : HostId) :
    (s.updLease t f).touchedBy v h = s.touchedBy v h :=
  (s.updLease_only t f).touchedBy v h

theorem State.updLease_touchedByOther (s : State) (t : TargetId) (f : Lease → Lease) (v : TargetId) :
    (s.updLease t f).touchedByOther v = s.touchedByOther v :=
  funext ((s.updLease_only t f).touchedByOther v)

/-- The end of a HELD lease, whether its target is touched or not. -/
theorem State.leaseEnd_entry {s : State} {t : TargetId} {h : HostId} (held : (s.entry t).lease.state = .held h) (r : EndReason)
    (v : TargetId) : (s.leaseEnd t r).entry v =
      if v = t then
        { s.entry t with
          lease := if s.touchedBy t h then { (s.entry t).lease with state := .ending h r }
            else Lease.checked { (s.entry t).lease with state := .free } s.elapsed (s.touchedByOther t) }
      else s.entry v := by
  cases touched : s.touchedBy t h
  · rw [State.leaseEnd_of_untouched held touched, State.leaseFinish_entry]
    rfl
  · rw [State.leaseEnd_of_touched held touched, State.updLease_entry]
    rfl

theorem State.leaseTeardown_of_held {s : State} {h : HostId} {t : TargetId} (held : (s.entry t).lease.state = .held h) :
    s.leaseTeardown h t = (s.updLease t (·.without h)).leaseEnd t .released := by
  simp [State.leaseTeardown, held]

theorem State.leaseTeardown_of_ending {s : State} {h : HostId} {t : TargetId} {r : EndReason}
    (ending : (s.entry t).lease.state = .ending h r) :
    s.leaseTeardown h t = s.updLease t fun l => { l.without h with state := .ending h .released } := by
  simp [State.leaseTeardown, ending, State.updLease_updLease]

theorem State.leaseTeardown_of_head {s : State} {h : HostId} {t : TargetId} (free : (s.entry t).lease.state = .free)
    (head : (s.entry t).lease.headIs h = true) : s.leaseTeardown h t = (s.updLease t (·.without h)).grantCheck t := by
  simp [State.leaseTeardown, free, head]

/-- The host neither holds the lease nor heads the wait list of a FREE one. -/
theorem State.leaseTeardown_of_other {s : State} {h : HostId} {t : TargetId} (notHeld : (s.entry t).lease.state ≠ .held h)
    (notEnding : ∀ r, (s.entry t).lease.state ≠ .ending h r)
    (notHead : (s.entry t).lease.state = .free → (s.entry t).lease.headIs h = false) :
    s.leaseTeardown h t = s.updLease t (·.without h) := by
  unfold State.leaseTeardown
  cases lease : (s.entry t).lease.state with
  | held g =>
    have other : g ≠ h := fun e => notHeld (by rw [lease, e])
    simp [other]
  | ending g r =>
    have other : g ≠ h := fun e => notEnding r (by rw [lease, e])
    simp [other]
  | free => simp [notHead lease]

/-- The four cases of R64 for one lease record. -/
theorem Lease.teardown_cases (l : Lease) (h : HostId) :
    l.state = .held h ∨ (∃ r, l.state = .ending h r) ∨ (l.state = .free ∧ l.headIs h = true)
      ∨ (l.state ≠ .held h ∧ (∀ r, l.state ≠ .ending h r) ∧ (l.state = .free → l.headIs h = false)) := by
  cases lease : l.state with
  | held g => by_cases own : g = h <;> simp [own]
  | ending g r => by_cases own : g = h <;> simp [own]
  | free => cases l.headIs h <;> simp

theorem Lease.tornDown_of_held {l : Lease} {h : HostId} (held : l.state = .held h) (now : Nat) (touched : Bool)
    (blocked : HostId → Bool) : l.tornDown h now touched blocked =
      if touched then { l.without h with state := .ending h .released }
      else Lease.checked { l.without h with state := .free } now blocked := by
  simp [Lease.tornDown, Lease.without, held]

theorem Lease.tornDown_of_ending {l : Lease} {h : HostId} {r : EndReason} (ending : l.state = .ending h r) (now : Nat)
    (touched : Bool) (blocked : HostId → Bool) :
    l.tornDown h now touched blocked = { l.without h with state := .ending h .released } := by
  simp [Lease.tornDown, Lease.without, ending]

theorem Lease.tornDown_of_head {l : Lease} {h : HostId} (free : l.state = .free) (head : l.headIs h = true) (now : Nat)
    (touched : Bool) (blocked : HostId → Bool) : l.tornDown h now touched blocked = (l.without h).checked now blocked := by
  simp only [Lease.headIs, decide_eq_true_eq] at head
  simp [Lease.tornDown, Lease.without, free, head]

theorem Lease.tornDown_of_other {l : Lease} {h : HostId} (notHeld : l.state ≠ .held h) (notEnding : ∀ r, l.state ≠ .ending h r)
    (notHead : l.state = .free → l.headIs h = false) (now : Nat) (touched : Bool) (blocked : HostId → Bool) :
    l.tornDown h now touched blocked = l.without h := by
  unfold Lease.tornDown Lease.without
  cases lease : l.state with
  | held g =>
    have other : g ≠ h := fun e => notHeld (by rw [lease, e])
    simp [other]
  | ending g r =>
    have other : g ≠ h := fun e => notEnding r (by rw [lease, e])
    simp [other]
  | free =>
    have head := notHead lease
    simp only [Lease.headIs, decide_eq_false_iff_not] at head
    simp [head]

theorem State.leaseTeardown_entry (s : State) (h : HostId) (t v : TargetId) : (s.leaseTeardown h t).entry v =
    if v = t then
      { s.entry t with lease := (s.entry t).lease.tornDown h s.elapsed (s.touchedBy t h) (s.touchedByOther t) }
    else s.entry v := by
  rcases (s.entry t).lease.teardown_cases h with held | ⟨r, ending⟩ | ⟨free, head⟩ | ⟨notHeld, notEnding, notHead⟩
  · have held' : ((s.updLease t (·.without h)).entry t).lease.state = .held h := by
      rw [State.updLease_entry_self]
      exact held
    rw [State.leaseTeardown_of_held held, State.leaseEnd_entry held', State.updLease_entry_self, State.updLease_touchedBy,
      State.updLease_touchedByOther, Lease.tornDown_of_held held, State.updLease_entry]
    split <;> rfl
  · rw [State.leaseTeardown_of_ending ending, Lease.tornDown_of_ending ending, State.updLease_entry]
  · rw [State.leaseTeardown_of_head free head, Lease.tornDown_of_head free head, State.grantCheck_entry,
      State.updLease_entry_self, State.updLease_touchedByOther, State.updLease_entry]
    split <;> rfl
  · rw [State.leaseTeardown_of_other notHeld notEnding notHead, Lease.tornDown_of_other notHeld notEnding notHead,
      State.updLease_entry]

/-- A host that is not torn down is as it was, but for a lease granted to it (R55, R64). -/
theorem State.leaseTeardown_host_ne (s : State) {h g : HostId} (other : g ≠ h) (t : TargetId) : (s.leaseTeardown h t).host g =
    (s.host g).toldGrant g t (s.entry t).lease
      ((s.entry t).lease.tornDown h s.elapsed (s.touchedBy t h) (s.touchedByOther t)) s.stamp := by
  rcases (s.entry t).lease.teardown_cases h with held | ⟨r, ending⟩ | ⟨free, head⟩ | ⟨notHeld, notEnding, notHead⟩
  · have held' : ((s.updLease t (·.without h)).entry t).lease.state = .held h := by
      rw [State.updLease_entry_self]
      exact held
    rw [State.leaseTeardown_of_held held, Lease.tornDown_of_held held]
    cases touched : s.touchedBy t h
    · rw [State.leaseEnd_of_untouched held' (by rw [State.updLease_touchedBy, touched]), State.leaseFinish_host,
        State.updLease_entry_self, State.updLease_touchedByOther, if_neg other]
      exact HostCtx.toldGrant_congr (by simp [held, Ne.symm other])
    · rw [State.leaseEnd_of_touched held' (by rw [State.updLease_touchedBy, touched])]
      exact (HostCtx.toldGrant_of_not (.inr (by simp))).symm
  · rw [State.leaseTeardown_of_ending ending, Lease.tornDown_of_ending ending]
    exact (HostCtx.toldGrant_of_not (.inr (by simp))).symm
  · rw [State.leaseTeardown_of_head free head, Lease.tornDown_of_head free head, State.grantCheck_host,
      State.updLease_entry_self, State.updLease_touchedByOther]
    rfl
  · rw [State.leaseTeardown_of_other notHeld notEnding notHead, Lease.tornDown_of_other notHeld notEnding notHead]
    exact (if_neg fun both => both.1 both.2).symm

/-- Work that ends where no entry is QUEUED ends nothing. -/
theorem HostCtx.endWork_of_running {c : HostCtx} (running : ∀ e ∈ c.sq, e.state ≠ .queued) (hit : List SubEntry → Bool)
    (st : SubEntry → CStatus) (now : Stamp) : c.endWork hit st now = c := by
  have stays : ∀ g ∈ groups c.sq, endsGroup hit g = false := by
    intro g hg
    obtain ⟨e, he⟩ := List.exists_mem_of_ne_nil g (groups_ne_nil _ g hg)
    have runs : g.all (·.queued) = false :=
      List.all_eq_false.2 ⟨e, he, by simpa [SubEntry.queued] using running e (mem_of_mem_groups hg he)⟩
    rw [endsGroup, runs, Bool.false_and]
  have ended : (groups c.sq).filter (endsGroup hit) = [] := by simpa [List.filter_eq_nil_iff] using stays
  have kept : (groups c.sq).filter (fun g => !endsGroup hit g) = groups c.sq := by
    simpa [List.filter_eq_self] using stays
  simp [HostCtx.endWork, ended, kept, groups_flatten, HostCtx.appendRecords]

/-- The host torn down, none of whose entries is QUEUED any more, is untouched by the teardown of its leases (R64). -/
theorem State.leaseTeardown_host_self {s : State} {h : HostId} (running : ∀ e ∈ (s.host h).sq, e.state ≠ .queued)
    (t : TargetId) : (s.leaseTeardown h t).host h = s.host h := by
  have gone (l : Lease) (now : Nat) (blocked : HostId → Bool) (notHeld : (l.without h).state ≠ .held h) :
      ((l.without h).checked now blocked).state ≠ .held h := by
    rcases (l.without h).grants_cases blocked with ⟨w, ws, granted⟩ | none
    · rw [Lease.checked_of_grants granted]
      have : w ∈ (l.without h).waiters := by simp [granted.2.1]
      have : w.host ≠ h := by simpa using (List.mem_filter.1 this).2
      simpa using this
    · rw [Lease.checked_of_none none]
      exact notHeld
  rcases (s.entry t).lease.teardown_cases h with held | ⟨r, ending⟩ | ⟨free, head⟩ | ⟨notHeld, notEnding, notHead⟩
  · have held' : ((s.updLease t (·.without h)).entry t).lease.state = .held h := by
      rw [State.updLease_entry_self]
      exact held
    rw [State.leaseTeardown_of_held held]
    cases touched : s.touchedBy t h
    · rw [State.leaseEnd_of_untouched held' (by rw [State.updLease_touchedBy, touched]), State.leaseFinish_host,
        State.updLease_entry_self, if_pos rfl, HostCtx.leaseFreed, if_pos rfl]
      rw [HostCtx.toldGrant_of_not (.inr _)]
      · exact HostCtx.endWork_of_running running _ _ _
      · exact gone { (s.entry t).lease with state := .free } _ _ (by simp [Lease.without])
    · rw [State.leaseEnd_of_touched held' (by rw [State.updLease_touchedBy, touched])]
      rfl
  · rw [State.leaseTeardown_of_ending ending]
    rfl
  · rw [State.leaseTeardown_of_head free head, State.grantCheck_host, State.updLease_entry_self,
      HostCtx.toldGrant_of_not (.inr _)]
    · rfl
    · exact gone (s.entry t).lease _ _ (by simp [Lease.without, free])
  · rw [State.leaseTeardown_of_other notHeld notEnding notHead]
    rfl

end Sys2Proof.Machine
end

section
/-! PROOFS. What ends a lease, and who withdraws from its wait list (chapter 03): RELEASE, LEASE_REVOKE and LEASE_EXPIRY. -/

namespace Sys2Proof.Machine

/-! ## Touching runs of the holder (R51) -/

theorem State.touchedBy_iff (s : State) (t : TargetId) (h : HostId) : s.touchedBy t h = true ↔
    ∃ y r, (s.lane y).run = some r ∧ r.host = h ∧ ∃ e ∈ (s.host h).sq, e.state = .running y ∧ e.desc.target = t := by
  rw [State.touchedBy, decide_eq_true_iff, ← LaneId.exists_iff fun y => s.touchedOn y t = some h]
  simp only [State.touchedOn_eq_some_iff]
  constructor
  · rintro ⟨y, r, running, rfl, named⟩
    exact ⟨y, r, running, rfl, named⟩
  · rintro ⟨y, r, running, rfl, named⟩
    exact ⟨y, r, running, rfl, named⟩

/-! ## The answer to a command leaves all but the port -/

theorem State.answers_host (s : State) (h : HostId) (c : Cmd) (x : Byte) (p : List Byte) (r : Reply) (g : HostId) :
    (s.answers h c x p r).host g =
      if g = h then { s.host h with port := (s.host h).port.answered (commandFrameOf c x p) r } else s.host g :=
  State.updPort_host s h g _

theorem State.answers_port_self (s : State) (h : HostId) (c : Cmd) (x : Byte) (p : List Byte) (r : Reply) :
    ((s.answers h c x p r).host h).port = (s.host h).port.answered (commandFrameOf c x p) r :=
  State.updPort_port_self s h _

theorem State.answers_port_ne (s : State) {h g : HostId} (other : g ≠ h) (c : Cmd) (x : Byte) (p : List Byte) (r : Reply) :
    ((s.answers h c x p r).host g).port = (s.host g).port := by
  rw [State.answers_host, if_neg other]

/-- But for its port a host is as the command has left it. -/
theorem State.answers_withPort (s : State) (h : HostId) (c : Cmd) (x : Byte) (p : List Byte) (r : Reply) (g : HostId) (q : Port) :
    { (s.answers h c x p r).host g with port := q } = { s.host g with port := q } := by
  rw [State.answers_host]
  split
  · next same => rw [same]
  · rfl

/-! ## The payload that is one table index -/

theorem parseIndex_byteOf (t : TargetId) : parseIndex [byteOf t.val] = some t := by
  simp [parseIndex, oneByte, targetOfByte_byteOf]

theorem parseIndex_badField {index : Byte} (outside : 48 ≤ index.toNat) : parseIndex [index] = none := by
  simp [parseIndex, oneByte, targetOfByte_eq_none outside]

/-! ## What RELEASE and LEASE_REVOKE answer (R60, R61) -/

theorem exec_release_accepted {s s' : State} {h : HostId} {x index : Byte} {r : Reply}
    (ha : s.accepts h .release x [index] = true) (hr : releaseCommand h [index] s = (s', r)) :
    exec (.release h x index) s = .next (s'.answers h .release x [index] r) :=
  congrArg Host.Outcome.next (State.sends_answered ha (congrArg answered hr))

theorem exec_leaseRevoke_accepted {s s' : State} {h : HostId} {x index : Byte} {r : Reply}
    (ha : s.accepts h .leaseRevoke x [index] = true) (hr : leaseRevoke [index] s = (s', r)) :
    exec (.leaseRevoke h x index) s = .next (s'.answers h .leaseRevoke x [index] r) :=
  congrArg Host.Outcome.next (State.sends_answered ha (congrArg answered hr))

theorem exec_leaseExpiry_released (t : TargetId) {s : State} (released : s.resetAsserted = false) :
    exec (.leaseExpiry t) s = .next (s.leaseExpire t) :=
  congrArg Host.Outcome.next (State.live_of_released s _ released)

theorem releaseCommand_badField {h : HostId} {index : Byte} (outside : 48 ≤ index.toNat) (s : State) :
    releaseCommand h [index] s = (s, ⟨.badField, []⟩) := by
  simp [releaseCommand, parseIndex_badField outside, plain]

/-- RELEASE by what the caller is to the lease: holder in state HELD, holder in state ENDING, waiter, or nobody. -/
theorem releaseCommand_eq (h : HostId) (t : TargetId) (s : State) :
    releaseCommand h [byteOf t.val] s =
      if (s.entry t).lease.state.heldBy h then (s.leaseEnd t .released, ⟨.done, (s.leaseEnd t .released).leaseSummary t⟩)
      else if (s.entry t).lease.state.holder = some h then (s, ⟨.done, s.leaseSummary t⟩)
      else if (s.entry t).lease.waits h then (s.withdraw t h, ⟨.done, (s.withdraw t h).leaseSummary t⟩)
      else (s, ⟨.notHolder, []⟩) := by
  rw [releaseCommand, parseIndex_byteOf]
  rfl

theorem releaseCommand_of_held {h : HostId} {t : TargetId} {s : State} (held : (s.entry t).lease.state = .held h) :
    releaseCommand h [byteOf t.val] s = (s.leaseEnd t .released, ⟨.done, (s.leaseEnd t .released).leaseSummary t⟩) := by
  rw [releaseCommand_eq, if_pos ((LeaseState.heldBy_iff _ h).2 held)]

theorem releaseCommand_of_ending {h : HostId} {t : TargetId} {r : EndReason} {s : State}
    (ending : (s.entry t).lease.state = .ending h r) :
    releaseCommand h [byteOf t.val] s = (s, ⟨.done, s.leaseSummary t⟩) := by
  rw [releaseCommand_eq, ending]
  simp [LeaseState.heldBy, LeaseState.holder]

theorem LeaseState.heldBy_eq_false {l : LeaseState} {h : HostId} (other : l.holder ≠ some h) : l.heldBy h = false := by
  cases l <;> simp_all [LeaseState.heldBy, LeaseState.holder]

theorem releaseCommand_of_waiter {h : HostId} {t : TargetId} {s : State} (other : (s.entry t).lease.state.holder ≠ some h)
    (waits : (s.entry t).lease.waits h = true) :
    releaseCommand h [byteOf t.val] s = (s.withdraw t h, ⟨.done, (s.withdraw t h).leaseSummary t⟩) := by
  rw [releaseCommand_eq, LeaseState.heldBy_eq_false other, if_neg Bool.false_ne_true, if_neg other, if_pos waits]

theorem releaseCommand_of_stranger {h : HostId} {t : TargetId} {s : State} (other : (s.entry t).lease.state.holder ≠ some h)
    (stranger : (s.entry t).lease.waits h = false) : releaseCommand h [byteOf t.val] s = (s, ⟨.notHolder, []⟩) := by
  rw [releaseCommand_eq, LeaseState.heldBy_eq_false other, if_neg Bool.false_ne_true, if_neg other, stranger,
    if_neg Bool.false_ne_true]

theorem leaseRevoke_badField {index : Byte} (outside : 48 ≤ index.toNat) (s : State) :
    leaseRevoke [index] s = (s, ⟨.badField, []⟩) := by
  simp [leaseRevoke, parseIndex_badField outside, plain]

theorem leaseRevoke_undefined {t : TargetId} {s : State} (undefined : (s.entry t).state = .undefined) :
    leaseRevoke [byteOf t.val] s = (s, ⟨.badEntry, []⟩) := by
  simp [leaseRevoke, parseIndex_byteOf, undefined, plain]

theorem leaseRevoke_defined {t : TargetId} {s : State} (defined : (s.entry t).state ≠ .undefined) :
    leaseRevoke [byteOf t.val] s = (s.leaseEnd t .revoked, ⟨.done, (s.leaseEnd t .revoked).leaseSummary t⟩) := by
  simp [leaseRevoke, parseIndex_byteOf, defined]

theorem State.leaseExpire_of_held {s : State} {t : TargetId} {h : HostId} (held : (s.entry t).lease.state = .held h)
    (reached : (s.entry t).lease.expiry * 1000 ≤ s.elapsed) : s.leaseExpire t = s.leaseEnd t .expired := by
  simp [State.leaseExpire, held, State.reached, reached]

/-! ## The end of a HELD lease -/

/-- The rows that end a HELD lease, with their reason: the state is that of the lease's end, with the caller's answer stored when a
command ends it. -/
theorem exec_of_heldLeaseEnd {s : State} {g h : HostId} {x : Byte} {t : TargetId} {c : Instr} {r : EndReason} {detail : Byte}
    {cmd : Option Cmd} (held : (s.entry t).lease.state = .held h)
    (row : c = .release g x (byteOf t.val) ∧ g = h ∧ r = .released ∧ s.accepts g .release x [byteOf t.val] = true
        ∧ cmd = some .release
      ∨ c = .leaseRevoke g x (byteOf t.val) ∧ r = .revoked ∧ detail = 2 ∧ s.accepts g .leaseRevoke x [byteOf t.val] = true
          ∧ (s.entry t).state ≠ .undefined ∧ cmd = some .leaseRevoke
      ∨ c = .leaseExpiry t ∧ r = .expired ∧ detail = 1 ∧ s.resetAsserted = false
          ∧ (s.entry t).lease.expiry * 1000 ≤ s.elapsed ∧ cmd = none) :
    (r ≠ .released → detail = endReasonByte r)
      ∧ (cmd = none ∧ exec c s = .next (s.leaseEnd t r)
        ∨ ∃ d, cmd = some d ∧ exec c s = .next ((s.leaseEnd t r).answers g d x [byteOf t.val]
            ⟨.done, (s.leaseEnd t r).leaseSummary t⟩)) := by
  rcases row with ⟨rfl, rfl, rfl, ha, rfl⟩ | ⟨rfl, rfl, rfl, ha, defined, rfl⟩ | ⟨rfl, rfl, rfl, released, reached, rfl⟩
  · exact ⟨fun n => absurd rfl n, .inr ⟨_, rfl, exec_release_accepted ha (releaseCommand_of_held held)⟩⟩
  · exact ⟨fun _ => rfl, .inr ⟨_, rfl, exec_leaseRevoke_accepted ha (leaseRevoke_defined defined)⟩⟩
  · refine ⟨fun _ => rfl, .inl ⟨rfl, ?_⟩⟩
    rw [exec_leaseExpiry_released t released, State.leaseExpire_of_held held reached]

/-- A host after a finish that grants nobody: the former holder alone has changed. -/
theorem State.leaseFinish_host_of_none {s : State} {t : TargetId}
    (none : ∀ w ws, ¬Lease.grants { (s.entry t).lease with state := .free } (s.touchedByOther t) w ws) (h : HostId)
    (r : EndReason) (k : HostId) :
    (s.leaseFinish t h r).host k = if k = h then (s.host h).leaseFreed t r s.stamp else s.host k := by
  rw [State.leaseFinish_host, Lease.checked_of_none none, HostCtx.toldGrant_same]

/-- A host after a finish that grants the head waiter: it takes LEASE_GRANTED last. -/
theorem State.leaseFinish_host_of_grants {s : State} {t : TargetId} {w : Waiter} {ws : List Waiter}
    (granted : Lease.grants { (s.entry t).lease with state := .free } (s.touchedByOther t) w ws) (h : HostId) (r : EndReason)
    (k : HostId) :
    let freed := if k = h then (s.host h).leaseFreed t r s.stamp else s.host k
    (s.leaseFinish t h r).host k = if k = w.host then freed.takeNotice .leaseGranted (.target t) 0 s.stamp else freed := by
  rw [State.leaseFinish_host, Lease.checked_of_grants granted]
  by_cases head : k = w.host
  · simp only [if_pos head]
    exact HostCtx.toldGrant_of_new (by simp) (by rw [head])
  · simp only [if_neg head]
    exact HostCtx.toldGrant_of_not (.inr fun e => head (LeaseState.held.inj e).symm)

/-- Settles O23: the three rows by `exec_of_heldLeaseEnd`, and the end of the lease by whether its target is touched and its head
waiter granted. -/
theorem heldLeaseEnds : Obligations.HeldLeaseEnds := by
  refine ⟨State.touchedBy_iff, ?_⟩
  intro s g h x t c r detail cmd l held row flagged searched told
  obtain ⟨reason, effect⟩ := exec_of_heldLeaseEnd held row
  clear row
  have only := s.leaseEnd_only t r
  have freed (k : HostId) : (if k = h then (s.host h).leaseFreed t r s.stamp else s.host k) = told k := by
    by_cases own : k = h
    · subst own
      simp only [told, searched, if_true, HostCtx.leaseFreed_eq]
      by_cases quiet : r = .released
      · simp [quiet, flagged]
      · simp [quiet, flagged, reason quiet]
    · simp [told, searched, own]
  have entry := State.leaseEnd_entry held r
  have ended : ∃ u, exec c s = .next u ∧ (∀ v, u.entry v = (s.leaseEnd t r).entry v)
      ∧ (∀ k, { u.host k with port := (s.host k).port } = (s.leaseEnd t r).host k)
      ∧ (∀ d, cmd = some d → (u.host g).port =
          (s.host g).port.answered (commandFrameOf d x [byteOf t.val]) ⟨.done, u.leaseSummary t⟩)
      ∧ (∀ k, (k ≠ g ∨ cmd = none) → (u.host k).port = (s.host k).port)
      ∧ u.laneA = s.laneA ∧ u.laneB = s.laneB ∧ u.trace = s.trace ∧ u.loader = s.loader ∧ u.elapsed = s.elapsed := by
    rcases effect with ⟨rfl, next⟩ | ⟨d, rfl, next⟩
    · refine ⟨_, next, fun _ => rfl, fun k => ?_, ?_, fun k _ => only.port k,
        only.rest.laneA, only.rest.laneB, only.rest.trace, only.rest.loader, only.rest.elapsed⟩
      · rw [← only.port k]
      · intro d e
        cases e
    · refine ⟨_, next, fun _ => rfl, fun k => ?_, ?_, ?_,
        only.rest.laneA, only.rest.laneB, only.rest.trace, only.rest.loader, only.rest.elapsed⟩
      · exact (State.answers_withPort _ g d x _ _ k _).trans (by rw [← only.port k])
      · rintro _ ⟨⟩
        rw [State.answers_port_self, only.port]
        rfl
      · rintro k (other | none)
        · rw [State.answers_port_ne _ other, only.port]
        · cases none
  obtain ⟨u, next, entries, hosts, answer, ports, laneA, laneB, trace, loader, elapsed⟩ := ended
  refine ⟨u, next, fun touched => ?_, fun untouched blocked => ?_, fun untouched w ws waits clear => ?_, answer, ports, ?_, ?_, ?_,
    fun v other => ?_, laneA, laneB, trace, loader, elapsed⟩
  · refine ⟨by rw [entries, entry, if_pos rfl, if_pos touched], fun k => ?_⟩
    rw [hosts, State.leaseEnd_of_touched held touched]
    rfl
  · have none : ∀ w ws, ¬Lease.grants { (s.entry t).lease with state := .free } (s.touchedByOther t) w ws := by
      rintro w ws ⟨_, waits, clear⟩
      rcases blocked with empty | ⟨w', ws', waits', touched⟩
      · cases waits.symm.trans empty
      · cases waits.symm.trans waits'
        rw [touched] at clear
        cases clear
    refine ⟨by rw [entries, entry, if_pos rfl, untouched, if_neg Bool.false_ne_true, Lease.checked_of_none none], fun k => ?_⟩
    rw [hosts, State.leaseEnd_of_untouched held untouched, State.leaseFinish_host_of_none none, freed]
  · have granted : Lease.grants { (s.entry t).lease with state := .free } (s.touchedByOther t) w ws := ⟨rfl, waits, clear⟩
    refine ⟨by rw [entries, entry, if_pos rfl, untouched, if_neg Bool.false_ne_true, Lease.checked_of_grants granted],
      fun k => ?_⟩
    rw [hosts, State.leaseEnd_of_untouched held untouched, State.leaseFinish_host_of_grants granted, freed]
  · rw [entries, entry, if_pos rfl]
  · rw [entries, entry, if_pos rfl]
  · rw [entries, entry, if_pos rfl]
  · rw [entries, entry, if_neg other]

/-! ## Withdrawing from a wait list (R54, R60) -/

/-- The one item of a host leaves its wait list, and the others keep their order (R50). -/
theorem Lease.without_eq {l : Lease} {h : HostId} {pre post : List Waiter} {w : Waiter} (waits : l.waiters = pre ++ w :: post)
    (own : w.host = h) (others : ∀ v ∈ pre ++ post, v.host ≠ h) : l.without h = { l with waiters := pre ++ post } := by
  have keeps (ws : List Waiter) (hws : ∀ v ∈ ws, v ∈ pre ++ post) : ws.filter (fun v => decide (v.host ≠ h)) = ws :=
    List.filter_eq_self.2 fun v hv => decide_eq_true (others v (hws v hv))
  rw [Lease.without, waits, List.filter_append, List.filter_cons_of_neg (by simp [own]),
    keeps pre fun v => List.mem_append_left post, keeps post fun v => List.mem_append_right pre]

theorem Lease.headIs_cons {l : Lease} {h : HostId} {post : List Waiter} {w : Waiter} (waits : l.waiters = w :: post)
    (own : w.host = h) : l.headIs h = true := by
  simp [Lease.headIs, waits, own]

theorem Lease.headIs_of_other {l : Lease} {h : HostId} {ws : List Waiter} {v : Waiter} (waits : l.waiters = v :: ws)
    (other : v.host ≠ h) : l.headIs h = false := by
  simp [Lease.headIs, waits, other]

/-- Settles O24: RELEASE by `releaseCommand_of_ending`, `_of_waiter` and `_of_stranger`, and a withdrawal by whether it is the head
waiter's and the next one is granted. -/
theorem releaseAndRevokeOtherwise : Obligations.ReleaseAndRevokeOtherwise := by
  refine ⟨fun s h x index outside => ⟨fun ha => exec_release_accepted ha (releaseCommand_badField outside s),
    fun ha => exec_leaseRevoke_accepted ha (leaseRevoke_badField outside s)⟩, ?_⟩
  intro s h x t l run done
  refine ⟨fun ha => ⟨fun r ending => exec_release_accepted ha (releaseCommand_of_ending ending), fun other stranger => ?_, ?_⟩,
    fun ha defined notHeld => ?_, fun ha undefined => exec_leaseRevoke_accepted ha (leaseRevoke_undefined undefined)⟩
  · refine exec_release_accepted ha (releaseCommand_of_stranger other ?_)
    rw [← Bool.not_eq_true, Lease.waits_iff]
    rintro ⟨w, hw, own⟩
    exact stranger w hw own
  · intro other pre w post waits own others gone
    have command := exec_release_accepted ha (releaseCommand_of_waiter other ((Lease.waits_iff _ h).2 ⟨w, by simp [l, waits], own⟩))
    have left : s.updLease t (·.without h) = gone := State.updLease_congr (Lease.without_eq waits own others)
    have lease : (gone.entry t).lease = { l with waiters := pre ++ post } := by
      simp only [gone, State.updLease_entry_self]
      rfl
    have blocks : gone.touchedByOther t = s.touchedByOther t := State.updLease_touchedByOther s t _ t
    have withdrawn (after : State) (e : s.withdraw t h = after) : done after := e ▸ command
    have head : s.withdraw t h = if l.headIs h then gone.grantCheck t else gone := by
      rw [← left]
      rfl
    refine ⟨fun ungranted => withdrawn _ ?_, ?_⟩
    · rw [head]
      split
      · refine State.grantCheck_of_none ?_
        rintro v vs ⟨free, next, _⟩
        rw [lease] at free next
        rcases ungranted with behind | notFree | empty
        · obtain ⟨v', pre', rfl⟩ := List.exists_cons_of_ne_nil behind
          have notHead := Lease.headIs_of_other (h := h) (l := l) waits (others v' (by simp))
          simp_all
        · exact notFree free
        · have alone : pre = [] := by
            by_contra behind
            obtain ⟨v', pre', rfl⟩ := List.exists_cons_of_ne_nil behind
            have notHead := Lease.headIs_of_other (h := h) (l := l) waits (others v' (by simp))
            simp_all
          simp [alone, empty] at next
      · rfl
    · rintro rfl free v vs rfl
      have isHead : l.headIs h = true := Lease.headIs_cons waits own
      rw [isHead, if_pos rfl] at head
      refine ⟨fun blocked => withdrawn _ ?_, fun clear => withdrawn _ ?_⟩
      · rw [head, State.grantCheck_of_none]
        rintro v' vs' ⟨_, next, clear⟩
        rw [lease] at next
        cases next
        rw [blocks, blocked] at clear
        cases clear
      · have granted : (gone.entry t).lease.grants (gone.touchedByOther t) v vs := by
          rw [lease, blocks]
          exact ⟨free, rfl, clear⟩
        rw [head, State.grantCheck_of_grants granted, State.updLease_updLease]
        rfl
  · have same : s.leaseEnd t .revoked = s := State.leaseEnd_of_not_held notHeld _
    have command := leaseRevoke_defined defined
    rw [same] at command
    exact exec_leaseRevoke_accepted ha command

end Sys2Proof.Machine
end

section
/-! PROOFS. What can happen to a host (chapters 02, 05, 07, 09), one move at a time, and how each move divides its Submission Queue
anew. The laws that every step keeps are proved move by move. -/

namespace Sys2Proof.Machine

/-! ## Moves of a host -/

/-- But for its port, its settings and its flags a host is the same. -/
structure HostCtx.SameQueues (c d : HostCtx) : Prop where
  rights : d.rights = c.rights
  credits : d.credits = c.credits
  chain : d.chain = c.chain
  presentedTag : d.presentedTag = c.presentedTag
  presentedNotice : d.presentedNotice = c.presentedNotice
  sq : d.sq = c.sq
  cq : d.cq = c.cq
  nq : d.nq = c.nq

/-- What a rule other than SUBMIT's acceptance, HOST_RIGHTS and the device reset does to a host. -/
inductive HostMove : HostCtx → HostCtx → Prop
  /-- The queues stay. -/
  | aside {c d : HostCtx} : c.SameQueues d → HostMove c d
  /-- A notice (R142). -/
  | notice (c : HostCtx) (k : NoticeKind) (subj : Subject) (d : Byte) (now : Stamp) : HostMove c (c.takeNotice k subj d now)
  /-- Queued work ends without a run (R44). -/
  | ended (c : HostCtx) (hit : List SubEntry → Bool) (st : SubEntry → CStatus) (now : Stamp) : HostMove c (c.endWork hit st now)
  /-- The open chain is abandoned (R35). -/
  | abandoned (c : HostCtx) (st : SubEntry → CStatus) (now : Stamp) :
      HostMove c (HostCtx.endWork { c with chain := none } isOpen st now)
  /-- A run ends (R102). -/
  | runEnded (c : HostCtx) (x : LaneId) (r : Run) (now : Stamp) : HostMove c (c.endRun x r now)
  /-- A candidate is passed over (R82). -/
  | bypassed {c : HostCtx} {g : List SubEntry} : g ∈ groups c.sq → isItem g = true → HostMove c (c.raiseBypass g)
  /-- A candidate is granted (R83). -/
  | started {c : HostCtx} {g : List SubEntry} (x : LaneId) : g ∈ groups c.sq → isItem g = true → HostMove c (c.startItem x g)
  /-- A teardown (R173). -/
  | cleared (c : HostCtx) : HostMove c c.clearWork
  /-- FETCH_COMPLETION (R136). -/
  | shown {c : HostCtx} {r : Completion} {rs : List Completion} : c.cq = r :: rs → HostMove c { c with presentedTag := some r.tag }
  /-- RETIRE (R137). -/
  | retired {c : HostCtx} {r : Completion} {rs : List Completion} : c.cq = r :: rs →
      HostMove c { c with cq := rs, credits := c.credits + 1, presentedTag := none }
  /-- FETCH_NOTICE (R145). -/
  | noticeShown {c : HostCtx} : c.nq ≠ [] → HostMove c { c with presentedNotice := true, overflowSeen := c.overflow }
  /-- ACK_NOTICE (R146). -/
  | noticeAcked {c : HostCtx} {n : Notice} {ns : List Notice} : c.presentedNotice = true → c.nq = n :: ns →
      HostMove c { c with nq := ns, presentedNotice := false, overflow := c.overflow && !c.overflowSeen, overflowSeen := false }

/-- Any number of moves. -/
abbrev HostMoves : HostCtx → HostCtx → Prop := Relation.ReflTransGen HostMove

theorem HostMove.moves {c d : HostCtx} (m : HostMove c d) : HostMoves c d := .single m

/-- A property that every move keeps is kept by any number. -/
theorem HostMoves.keep {P : HostCtx → Prop} (each : ∀ c d, HostMove c d → P c → P d) {c d : HostCtx} (moves : HostMoves c d)
    (before : P c) : P d := by
  induction moves with
  | refl => exact before
  | tail _ last ih => exact each _ _ last ih

/-- What is the same before and after every move is the same after any number. -/
theorem HostMoves.fixed {α : Type} {f : HostCtx → α} (each : ∀ c d, HostMove c d → f d = f c) {c d : HostCtx}
    (moves : HostMoves c d) : f d = f c :=
  moves.keep (P := fun k => f k = f c) (fun _ _ m same => (each _ _ m).trans same) rfl

/-! ## What the moves leave -/

@[simp] theorem HostCtx.endWork_presentedTag (c : HostCtx) (hit : List SubEntry → Bool) (st : SubEntry → CStatus) (now : Stamp) :
    (c.endWork hit st now).presentedTag = c.presentedTag := by
  unfold HostCtx.endWork HostCtx.appendRecords; dsimp only; split <;> rfl
@[simp] theorem HostCtx.endWork_presentedNotice (c : HostCtx) (hit : List SubEntry → Bool) (st : SubEntry → CStatus) (now : Stamp) :
    (c.endWork hit st now).presentedNotice = c.presentedNotice := by
  unfold HostCtx.endWork HostCtx.appendRecords; dsimp only; split <;> rfl
@[simp] theorem HostCtx.appendRecords_presentedTag (c : HostCtx) (recs : List Completion) :
    (c.appendRecords recs).presentedTag = c.presentedTag := by
  unfold HostCtx.appendRecords; split <;> rfl
@[simp] theorem HostCtx.appendRecords_presentedNotice (c : HostCtx) (recs : List Completion) :
    (c.appendRecords recs).presentedNotice = c.presentedNotice := by
  unfold HostCtx.appendRecords; split <;> rfl
@[simp] theorem HostCtx.takeNotice_chain (c : HostCtx) (k : NoticeKind) (subj : Subject) (d : Byte) (now : Stamp) :
    (c.takeNotice k subj d now).chain = c.chain := by
  rcases c.takeNotice_cases k subj d now with h | ⟨_, _, h⟩ | ⟨_, _, h⟩ | h <;> rw [h]
@[simp] theorem HostCtx.takeNotice_presentedTag (c : HostCtx) (k : NoticeKind) (subj : Subject) (d : Byte) (now : Stamp) :
    (c.takeNotice k subj d now).presentedTag = c.presentedTag := by
  rcases c.takeNotice_cases k subj d now with h | ⟨_, _, h⟩ | ⟨_, _, h⟩ | h <;> rw [h]
@[simp] theorem HostCtx.takeNotice_presentedNotice (c : HostCtx) (k : NoticeKind) (subj : Subject) (d : Byte) (now : Stamp) :
    (c.takeNotice k subj d now).presentedNotice = c.presentedNotice := by
  rcases c.takeNotice_cases k subj d now with h | ⟨_, _, h⟩ | ⟨_, _, h⟩ | h <;> rw [h]

theorem HostCtx.endRun_of_discarded {r : Run} (discarded : r.discarded = true) (c : HostCtx) (x : LaneId) (now : Stamp) :
    c.endRun x r now = { c with
      sq := c.sq.filter fun e => !decide (e.state = .running x), credits := c.credits + (c.runningOn x).length,
      discardedRunning := c.discardedRunning - (c.runningOn x).length } :=
  if_pos discarded

theorem HostCtx.endRun_of_live {r : Run} (live : r.discarded = false) (c : HostCtx) (x : LaneId) (now : Stamp) :
    c.endRun x r now =
      HostCtx.appendRecords { c with sq := c.sq.filter fun e => !decide (e.state = .running x) }
        ((c.runningOn x).zipIdx.map fun (e, k) => runRecord r now e k) :=
  if_neg (by simp [live])

theorem HostCtx.endRun_sq (c : HostCtx) (x : LaneId) (r : Run) (now : Stamp) :
    (c.endRun x r now).sq = c.sq.filter fun e => !decide (e.state = .running x) := by
  cases discarded : r.discarded
  · rw [HostCtx.endRun_of_live discarded, HostCtx.appendRecords_sq]
  · rw [HostCtx.endRun_of_discarded discarded]

theorem HostMove.rights {c d : HostCtx} (m : HostMove c d) : d.rights = c.rights := by
  cases m with
  | aside same => exact same.rights
  | notice => simp
  | ended => simp
  | abandoned => simp
  | runEnded x r now =>
    cases discarded : r.discarded
    · rw [HostCtx.endRun_of_live discarded, HostCtx.appendRecords_rights]
    · rw [HostCtx.endRun_of_discarded discarded]
  | bypassed => rfl
  | started => rfl
  | cleared => rfl
  | shown => rfl
  | retired => rfl
  | noticeShown => rfl
  | noticeAcked => rfl

/-! ## The credits (R30) -/

/-- Free credits, submission entries and completion records of a host. -/
def HostCtx.creditSum (c : HostCtx) : Nat := c.credits + c.sq.length + c.cq.length

theorem HostCtx.endWork_creditSum (c : HostCtx) (hit : List SubEntry → Bool) (st : SubEntry → CStatus) (now : Stamp) :
    (c.endWork hit st now).creditSum = c.creditSum := by
  have lengths := c.endWork_lengths hit st now
  simp only [HostCtx.creditSum, HostCtx.endWork_credits]
  omega

theorem HostCtx.endRun_creditSum (c : HostCtx) (x : LaneId) (r : Run) (now : Stamp) :
    (c.endRun x r now).creditSum = c.creditSum := by
  have parts := c.running_split x
  cases discarded : r.discarded
  · simp only [HostCtx.endRun_of_live discarded, HostCtx.creditSum, HostCtx.appendRecords_sq, HostCtx.appendRecords_credits,
      HostCtx.appendRecords_cq_length, List.length_map, List.length_zipIdx]
    omega
  · simp only [HostCtx.endRun_of_discarded discarded, HostCtx.creditSum]
    omega

theorem HostCtx.clearWork_creditSum (c : HostCtx) : c.clearWork.creditSum = c.creditSum := by
  have parts : (c.sq.filter fun e => !e.queued).length + c.queuedCount = c.sq.length := by
    have := List.length_eq_length_filter_add (l := c.sq) fun e => e.queued
    simp only [HostCtx.queuedCount]
    omega
  simp only [HostCtx.clearWork, HostCtx.creditSum, List.length_nil]
  omega

theorem HostMove.creditSum {c d : HostCtx} (m : HostMove c d) : d.creditSum = c.creditSum := by
  cases m with
  | aside same => simp [HostCtx.creditSum, same.credits, same.sq, same.cq]
  | notice => simp [HostCtx.creditSum]
  | ended => exact c.endWork_creditSum _ _ _
  | abandoned => exact HostCtx.endWork_creditSum { c with chain := none } _ _ _
  | runEnded => exact c.endRun_creditSum _ _ _
  | bypassed => simp [HostCtx.creditSum, HostCtx.raiseBypass]
  | started => simp [HostCtx.creditSum, HostCtx.startItem]
  | cleared => exact c.clearWork_creditSum
  | shown => rfl
  | retired queue =>
    simp only [HostCtx.creditSum, queue, List.length_cons]
    omega
  | noticeShown => rfl
  | noticeAcked => rfl

/-! ## The bound of a Notice Queue (R139) -/

theorem HostMove.nq_bound {c d : HostCtx} (m : HostMove c d) (bound : c.nq.length ≤ Config.noticeCapacity) :
    d.nq.length ≤ Config.noticeCapacity := by
  cases m with
  | aside same => rwa [same.nq]
  | notice k subj b now =>
    rcases c.takeNotice_cases k subj b now with h | ⟨ns, same, h⟩ | ⟨n, room, h⟩ | h <;> rw [h]
    · exact bound
    · exact same.trans_le bound
    · simpa using room
    · exact bound
  | ended => simpa using bound
  | abandoned => simpa using bound
  | runEnded x r now =>
    cases discarded : r.discarded
    · simpa [HostCtx.endRun_of_live discarded] using bound
    · simpa [HostCtx.endRun_of_discarded discarded] using bound
  | bypassed => exact bound
  | started => exact bound
  | cleared => exact Nat.zero_le _
  | shown => exact bound
  | retired => exact bound
  | noticeShown => exact bound
  | noticeAcked _ queue =>
    rw [queue] at bound
    exact Nat.le_of_succ_le bound

/-! ## The markers and the ALERT records (R135, R139, R142, R144) -/

/-- The subjects of the ALERT records among these. -/
def alertSubjects (ns : List Notice) : List Subject := (ns.filter fun n => decide (n.kind = .alert)).map (·.subject)

/-- What a host's markers and its Notice Queue promise. -/
structure HostCtx.RecordsFit (c : HostCtx) : Prop where
  tag : ∀ tag, c.presentedTag = some tag → c.cq.head?.map (·.tag) = some tag
  notice : c.presentedNotice = true → c.nq ≠ []
  alerts : (alertSubjects c.unpresentedPart).Nodup

theorem HostCtx.recordsFit_iff (c : HostCtx) :
    c.RecordsFit ↔ (∀ tag, c.presentedTag = some tag → c.cq.head?.map (·.tag) = some tag) ∧ (c.presentedNotice = true → c.nq ≠ [])
      ∧ (((if c.presentedNotice then c.nq.drop 1 else c.nq).filter fun n => decide (n.kind = .alert)).map (·.subject)).Nodup :=
  ⟨fun fit => ⟨fit.tag, fit.notice, fit.alerts⟩, fun ⟨tag, notice, alerts⟩ => ⟨tag, notice, alerts⟩⟩

theorem coalesceIn_alertSubjects {subj : Subject} {d : Byte} {ns out : List Notice} (joined : coalesceIn subj d ns = some out) :
    alertSubjects out = alertSubjects ns := by
  induction ns generalizing out with
  | nil => cases joined
  | cons n ns ih =>
    rw [coalesceIn] at joined
    split at joined
    · cases joined
      simp only [alertSubjects, List.filter_cons]
      split <;> rfl
    · obtain ⟨rest, joins, rfl⟩ := Option.map_eq_some_iff.1 joined
      have := ih joins
      simp only [alertSubjects, List.filter_cons] at this ⊢
      split <;> simp [this]

theorem coalesceIn_none {subj : Subject} {d : Byte} {ns : List Notice} (apart : coalesceIn subj d ns = none) :
    subj ∉ alertSubjects ns := by
  induction ns with
  | nil => simp [alertSubjects]
  | cons n ns ih =>
    rw [coalesceIn] at apart
    split at apart
    · cases apart
    · next other =>
      have rest := ih (Option.map_eq_none_iff.1 apart)
      simp only [alertSubjects, List.filter_cons] at rest ⊢
      split
      · next alert =>
        simp only [decide_eq_true_eq] at alert
        have : subj ≠ n.subject := fun same => other ((n.isAlertFor_iff subj).2 ⟨alert, same.symm⟩)
        simpa [this] using rest
      · exact rest

theorem coalesceIn_ne_nil {subj : Subject} {d : Byte} {ns out : List Notice} (joined : coalesceIn subj d ns = some out) :
    out ≠ [] := by
  have length := coalesceIn_length subj d ns out joined
  rintro rfl
  rw [List.eq_nil_of_length_eq_zero length.symm] at joined
  cases joined

theorem HostCtx.RecordsFit.appendNotice {c : HostCtx} (fit : c.RecordsFit) {n : Notice}
    (fresh : n.kind = .alert → n.subject ∉ alertSubjects c.unpresentedPart) : (c.appendNotice n).RecordsFit := by
  unfold HostCtx.appendNotice
  split
  · refine ⟨fit.tag, fun _ => by simp, ?_⟩
    have part : HostCtx.unpresentedPart { c with nq := c.nq ++ [n] } = c.unpresentedPart ++ [n] := by
      unfold HostCtx.unpresentedPart
      dsimp only
      split
      · next shown => exact List.drop_append_of_le_length (List.length_pos_iff.2 (fit.notice shown))
      · rfl
    rw [part]
    unfold alertSubjects at fresh ⊢
    rw [List.filter_append, List.map_append]
    refine List.nodup_append'.2 ⟨fit.alerts, ?_, ?_⟩
    · rw [List.filter_singleton]
      cases decide (n.kind = .alert) <;> simp
    · by_cases alert : n.kind = .alert
      · simpa [alert] using fresh alert
      · simp [alert]
  · exact ⟨fit.tag, fit.notice, fit.alerts⟩

theorem HostCtx.RecordsFit.takeNotice {c : HostCtx} (fit : c.RecordsFit) (k : NoticeKind) (subj : Subject) (d : Byte) (now : Stamp) :
    (c.takeNotice k subj d now).RecordsFit := by
  unfold HostCtx.takeNotice
  split
  · exact fit
  · split
    · next ns joins =>
      split at joins
      · have part : HostCtx.unpresentedPart { c with nq := c.presentedPart ++ ns } = ns := by
          unfold HostCtx.unpresentedPart HostCtx.presentedPart
          dsimp only
          split
          · next shown =>
            have one : (c.nq.take 1).length = 1 := by
              have := List.length_pos_iff.2 (fit.notice shown)
              simp; omega
            exact List.drop_left' one
          · rfl
        exact ⟨fit.tag, fun _ => by simp [coalesceIn_ne_nil joins],
          by rw [part, coalesceIn_alertSubjects joins]; exact fit.alerts⟩
      · cases joins
    · next apart =>
      refine fit.appendNotice fun alert => coalesceIn_none (d := d) ?_
      rwa [if_pos alert] at apart

/-- Records that join a queue leave its head. -/
theorem head?_append_of_eq_some {cq recs : List Completion} {tag : Byte} (head : cq.head?.map (·.tag) = some tag) :
    (cq ++ recs).head?.map (·.tag) = some tag := by
  cases cq with
  | nil => cases head
  | cons r rs => exact head

theorem HostCtx.RecordsFit.appendRecords {c : HostCtx} (fit : c.RecordsFit) (recs : List Completion) :
    (c.appendRecords recs).RecordsFit := by
  refine ⟨fun tag shown => ?_, ?_, ?_⟩
  · have head := fit.tag tag (by simpa using shown)
    rcases c.appendRecords_cq recs with cq | cq <;> rw [cq] <;> exact head?_append_of_eq_some head
  · simpa using fit.notice
  · simpa [HostCtx.unpresentedPart] using fit.alerts

theorem HostCtx.RecordsFit.endWork {c : HostCtx} (fit : c.RecordsFit) (hit : List SubEntry → Bool) (st : SubEntry → CStatus)
    (now : Stamp) : (c.endWork hit st now).RecordsFit := by
  unfold HostCtx.endWork
  refine HostCtx.RecordsFit.appendRecords ?_ _
  exact ⟨fit.tag, fit.notice, fit.alerts⟩

theorem HostMove.recordsFit {c d : HostCtx} (m : HostMove c d) (fit : c.RecordsFit) : d.RecordsFit := by
  cases m with
  | aside same =>
    refine ⟨?_, ?_, ?_⟩
    · rw [same.presentedTag, same.cq]; exact fit.tag
    · rw [same.presentedNotice, same.nq]; exact fit.notice
    · rw [HostCtx.unpresentedPart, same.presentedNotice, same.nq]; exact fit.alerts
  | notice => exact fit.takeNotice _ _ _ _
  | ended => exact fit.endWork _ _ _
  | abandoned => exact HostCtx.RecordsFit.endWork (c := { c with chain := none }) ⟨fit.tag, fit.notice, fit.alerts⟩ _ _ _
  | runEnded x r now =>
    cases discarded : r.discarded
    · rw [HostCtx.endRun_of_live discarded]
      refine HostCtx.RecordsFit.appendRecords ?_ _
      exact ⟨fit.tag, fit.notice, fit.alerts⟩
    · rw [HostCtx.endRun_of_discarded discarded]
      exact ⟨fit.tag, fit.notice, fit.alerts⟩
  | bypassed => exact ⟨fit.tag, fit.notice, fit.alerts⟩
  | started => exact ⟨fit.tag, fit.notice, fit.alerts⟩
  | cleared =>
    refine ⟨fun tag shown => ?_, fun shown => ?_, List.nodup_nil⟩
    · cases shown
    · cases shown
  | shown queue => exact ⟨fun tag shown => (by cases shown; simp [queue]), fit.notice, fit.alerts⟩
  | retired => exact ⟨fun tag shown => (nomatch shown), fit.notice, fit.alerts⟩
  | noticeShown ne =>
    refine ⟨fit.tag, fun _ => ne, ?_⟩
    have alerts := fit.alerts
    unfold HostCtx.unpresentedPart at alerts ⊢
    dsimp only
    rw [if_pos rfl]
    split at alerts
    · exact alerts
    · exact alerts.sublist (((List.drop_sublist 1 _).filter _).map _)
  | noticeAcked shown queue =>
    refine ⟨fit.tag, fun no => (nomatch no), ?_⟩
    have alerts := fit.alerts
    rwa [HostCtx.unpresentedPart, if_pos shown, queue] at alerts

end Sys2Proof.Machine
end

section
/-! PROOFS. The division of a Submission Queue into its SOLO entries and its chains (chapter 02), and what each move of a host makes of
it: parts leave whole, a part changes whole, or an accepted entry joins the open chain or begins a part. -/

namespace Sys2Proof.Machine

/-! ## Whole work -/

theorem wholeWork_cons (e : SubEntry) (es : List SubEntry) :
    wholeWork (e :: es) = true ↔ e.continues = false ∧ ∀ d ∈ es, d.continues = true := by
  simp [wholeWork]

theorem wholeWork_ne_nil {g : List SubEntry} (whole : wholeWork g = true) : g ≠ [] := by
  rintro rfl
  cases whole

theorem startsAfresh_flatten {gs : List (List SubEntry)} (whole : ∀ g ∈ gs, wholeWork g = true) :
    startsAfresh gs.flatten = true := by
  cases gs with
  | nil => rfl
  | cons g gs =>
    cases g with
    | nil => cases whole [] (by simp)
    | cons e es => simp [startsAfresh, ((wholeWork_cons e es).1 (whole _ List.mem_cons_self)).1]

/-- Whole work is divided as it stands. -/
theorem groups_flatten_of_whole {gs : List (List SubEntry)} (whole : ∀ g ∈ gs, wholeWork g = true) : groups gs.flatten = gs := by
  induction gs with
  | nil => rfl
  | cons g gs ih =>
    have rest : ∀ k ∈ gs, wholeWork k = true := fun k hk => whole k (List.mem_cons_of_mem g hk)
    rw [List.flatten_cons, groups_whole_append g _ (whole g List.mem_cons_self) (startsAfresh_flatten rest), ih rest]

/-- The parts after the first begin with the start of work, and every part goes on with entries that continue it. -/
theorem groups_continue (es : List SubEntry) :
    (∀ g ∈ groups es, ∀ d ∈ g.tail, d.continues = true) ∧ ∀ g ∈ (groups es).tail, startsAfresh g = true := by
  induction es with
  | nil => simp [groups]
  | cons e es ih =>
    rw [groups_cons]
    split
    · next c g gs divided =>
      rw [divided] at ih
      obtain ⟨tails, starts⟩ := ih
      split
      · next continues =>
        refine ⟨fun k hk d hd => ?_, starts⟩
        rcases List.mem_cons.1 hk with rfl | rest
        · rcases List.mem_cons.1 hd with rfl | deep
          · exact continues
          · exact tails _ List.mem_cons_self d deep
        · exact tails k (List.mem_cons_of_mem _ rest) d hd
      · next fresh =>
        refine ⟨fun k hk d hd => ?_, fun k hk => ?_⟩
        · rcases List.mem_cons.1 hk with rfl | rest
          · cases hd
          · exact tails k rest d hd
        · rcases List.mem_cons.1 hk with rfl | rest
          · simpa [startsAfresh] using fresh
          · exact starts k rest
    · next gs other =>
      have none : groups es = [] := by
        cases divided : groups es with
        | nil => rfl
        | cons g gs =>
          cases g with
          | nil => exact absurd rfl (groups_ne_nil es [] (by rw [divided]; simp))
          | cons c g => exact absurd divided (other c g gs)
      simp [none]

/-- Every part of a queue that begins with the start of work is whole. -/
theorem wholeWork_of_mem_groups {es : List SubEntry} (fresh : startsAfresh es = true) {g : List SubEntry} (hg : g ∈ groups es) :
    wholeWork g = true := by
  obtain ⟨tails, starts⟩ := groups_continue es
  have head : startsAfresh g = true := by
    have first := groups_head es
    cases divided : groups es with
    | nil => rw [divided] at hg; cases hg
    | cons k gs =>
      rw [divided] at hg starts first
      rcases List.mem_cons.1 hg with rfl | rest
      · rw [startsAfresh, show g.head? = es.head? from first]
        exact fresh
      · exact starts g rest
  cases g with
  | nil => exact absurd rfl (groups_ne_nil es [] hg)
  | cons e g => exact (wholeWork_cons e g).2 ⟨by simpa [startsAfresh] using head, tails _ hg⟩

/-! ## A divided queue -/

/-- The work is QUEUED as a whole or RUNNING as a whole on one lane (R83). -/
def oneState (g : List SubEntry) : Bool :=
  g.all (·.queued) || g.all (fun e => decide (e.state = .running .A)) || g.all fun e => decide (e.state = .running .B)

/-- The host's queue is these closed parts in order and then the open chain, if it has one. -/
structure HostCtx.Divided (c : HostCtx) (gs : List (List SubEntry)) (o : Option (List SubEntry)) : Prop where
  sq : c.sq = (gs ++ o.toList).flatten
  whole : ∀ g ∈ gs ++ o.toList, wholeWork g = true
  states : ∀ g ∈ gs, oneState g = true
  closed : ∀ g ∈ gs, isOpen g = false
  opened : ∀ g ∈ o, isOpen g = true ∧ g.all (·.queued) = true
  chain : o.isSome = c.chain.isSome
  tags : (c.sq.map (·.desc.tag) ++ c.cq.map (·.tag)).Nodup

theorem HostCtx.Divided.groups_eq {c : HostCtx} {gs : List (List SubEntry)} {o : Option (List SubEntry)} (div : c.Divided gs o) :
    groups c.sq = gs ++ o.toList := by
  rw [div.sq, groups_flatten_of_whole div.whole]

theorem oneState_of_queued {g : List SubEntry} (queued : g.all (·.queued) = true) : oneState g = true := by
  simp [oneState, queued]

theorem HostCtx.queueFits_iff (c : HostCtx) : c.queueFits = true ↔ ∃ gs o, c.Divided gs o := by
  have parts : c.queueFits = true ↔ (∀ g ∈ groups c.sq, oneState g = true) ∧ startsAfresh c.sq = true
      ∧ (c.sq.map (·.desc.tag) ++ c.cq.map (·.tag)).Nodup ∧ (∀ g ∈ (groups c.sq).dropLast, isOpen g = false)
      ∧ (groups c.sq).getLast?.any isOpen = c.chain.isSome
      ∧ ∀ g ∈ groups c.sq, isOpen g = true → g.all (·.queued) = true := by
    simp only [HostCtx.queueFits, uniform, Bool.and_eq_true, List.all_eq_true, decide_eq_true_eq, beq_iff_eq,
      and_assoc, oneState, Bool.or_eq_true, Bool.not_eq_eq_eq_not, Bool.not_true, ← Bool.not_eq_true, imp_iff_not_or]
  rw [parts]
  constructor
  · rintro ⟨states, fresh, tags, closed, last, opened⟩
    have whole := fun g (hg : g ∈ groups c.sq) => wholeWork_of_mem_groups fresh hg
    cases final : (groups c.sq).getLast? with
    | none =>
      rw [final] at last
      have nil : groups c.sq = [] := List.getLast?_eq_none_iff.1 final
      have sq : c.sq = [] := by rw [← groups_flatten c.sq, nil]; rfl
      exact ⟨[], none, by simpa using sq, by simp, by simp, by simp, by simp, by simpa using last, tags⟩
    | some g =>
      rw [final] at last
      have split := List.dropLast_append_getLast? g final
      have mem : g ∈ groups c.sq := List.mem_of_getLast? final
      cases isO : isOpen g
      · refine ⟨groups c.sq, none, by simp [groups_flatten], by simpa using whole, states, fun k hk => ?_, by simp,
          by simpa [isO] using last, tags⟩
        rw [← split] at hk
        rcases List.mem_append.1 hk with before | here
        · exact closed k before
        · rwa [List.mem_singleton.1 here]
      · refine ⟨(groups c.sq).dropLast, some g, ?_, ?_, fun k hk => states k (List.dropLast_subset _ hk), closed, ?_,
          by simpa [isO] using last, tags⟩
        · rw [Option.toList_some, split, groups_flatten]
        · rw [Option.toList_some, split]
          exact whole
        · rintro k ⟨⟩
          exact ⟨isO, opened g mem isO⟩
  · rintro ⟨gs, o, div⟩
    rw [div.groups_eq]
    refine ⟨fun g hg => ?_, ?_, div.tags, ?_, ?_, fun g hg isO => ?_⟩
    · rcases List.mem_append.1 hg with closed | opened
      · exact div.states g closed
      · exact oneState_of_queued (div.opened g (Option.mem_toList.1 opened)).2
    · rw [div.sq]
      exact startsAfresh_flatten div.whole
    · cases o with
      | none =>
        intro g hg
        exact div.closed g (by simpa using List.dropLast_subset _ hg)
      | some g => simpa using div.closed
    · cases o with
      | none =>
        rw [← div.chain, Option.toList_none, List.append_nil]
        cases last : gs.getLast? with
        | none => rfl
        | some g => simpa using div.closed g (List.mem_of_getLast? last)
      | some g =>
        rw [← div.chain]
        simpa using (div.opened g rfl).1
    · rcases List.mem_append.1 hg with closed | opened
      · rw [div.closed g closed] at isO
        cases isO
      · exact (div.opened g (Option.mem_toList.1 opened)).2

/-! ## Work that fits the table -/

/-- The work in a host's queue fits this table (R14, R34, R70, R82). -/
def HostCtx.workFits (c : HostCtx) (table : TargetId → TableEntry) : Prop :=
  (∀ e ∈ c.sq, (table e.desc.target).state ≠ .undefined ∧ e.bypass ≤ 8)
    ∧ ∀ g ∈ groups c.sq,
      (∀ e ∈ g, ∀ i ∈ g, (table e.desc.target).cfg.lane = (table i.desc.target).cfg.lane ∧ e.bypass = i.bypass)
        ∧ (isOpen g = true → ∀ e ∈ g, e.bypass = 0 ∧ c.chain.map (·.lane) = some (table e.desc.target).cfg.lane)

/-- A part of a divided queue fits the table. -/
structure partFits (table : TargetId → TableEntry) (g : List SubEntry) : Prop where
  defined : ∀ e ∈ g, (table e.desc.target).state ≠ .undefined
  bound : ∀ e ∈ g, e.bypass ≤ 8
  lane : ∀ e ∈ g, ∀ i ∈ g, (table e.desc.target).cfg.lane = (table i.desc.target).cfg.lane
  bypass : ∀ e ∈ g, ∀ i ∈ g, e.bypass = i.bypass

/-- The parts of a divided queue fit the table, the open chain with the chain-assembly record. -/
structure HostCtx.PartsFit (c : HostCtx) (table : TargetId → TableEntry) (gs : List (List SubEntry)) (o : Option (List SubEntry)) :
    Prop where
  parts : ∀ g ∈ gs ++ o.toList, partFits table g
  opened : ∀ g ∈ o, ∀ e ∈ g, e.bypass = 0 ∧ c.chain.map (·.lane) = some (table e.desc.target).cfg.lane

theorem HostCtx.Divided.workFits_iff {c : HostCtx} {gs : List (List SubEntry)} {o : Option (List SubEntry)} (div : c.Divided gs o)
    (table : TargetId → TableEntry) : c.workFits table ↔ c.PartsFit table gs o := by
  unfold HostCtx.workFits
  rw [div.groups_eq]
  have mem {g : List SubEntry} {e : SubEntry} (hg : g ∈ gs ++ o.toList) (he : e ∈ g) : e ∈ c.sq := by
    rw [div.sq]
    exact List.mem_flatten.2 ⟨g, hg, he⟩
  constructor
  · rintro ⟨entries, parts⟩
    refine ⟨fun g hg => ⟨fun e he => (entries e (mem hg he)).1, fun e he => (entries e (mem hg he)).2,
      fun e he i hi => ((parts g hg).1 e he i hi).1, fun e he i hi => ((parts g hg).1 e he i hi).2⟩, fun g hg => ?_⟩
    exact (parts g (List.mem_append_right gs (Option.mem_toList.2 hg))).2 (div.opened g hg).1
  · rintro ⟨parts, opened⟩
    refine ⟨fun e he => ?_, fun g hg => ⟨fun e he i hi => ⟨(parts g hg).lane e he i hi, (parts g hg).bypass e he i hi⟩, fun isO => ?_⟩⟩
    · rw [div.sq] at he
      obtain ⟨g, hg, he⟩ := List.mem_flatten.1 he
      exact ⟨(parts g hg).defined e he, (parts g hg).bound e he⟩
    · rcases List.mem_append.1 hg with closed | last
      · rw [div.closed g closed] at isO
        cases isO
      · exact opened g (Option.mem_toList.1 last)

/-! ## Parts that leave -/

/-- Some parts leave whole, and an open chain that stays keeps its record. -/
theorem HostCtx.Divided.narrowed {c d : HostCtx} {gs : List (List SubEntry)} {o : Option (List SubEntry)} (div : c.Divided gs o)
    (p : List SubEntry → Bool) (sq : d.sq = ((gs ++ o.toList).filter p).flatten) (chain : d.chain.isSome = o.any p)
    (tags : (d.sq.map (·.desc.tag) ++ d.cq.map (·.tag)).Nodup) : d.Divided (gs.filter p) (o.filter p) := by
  have same : gs.filter p ++ (o.filter p).toList = (gs ++ o.toList).filter p := by
    rw [List.filter_append]
    cases o with
    | none => rfl
    | some g => cases keep : p g <;> simp [Option.filter, keep]
  refine ⟨by rw [same, sq], fun g hg => ?_, fun g hg => div.states g (List.mem_of_mem_filter hg),
    fun g hg => div.closed g (List.mem_of_mem_filter hg), fun g hg => ?_, ?_, tags⟩
  · rw [same] at hg
    exact div.whole g (List.mem_of_mem_filter hg)
  · exact div.opened g (Option.mem_filter_iff.1 hg).1
  · rw [chain]
    cases o with
    | none => rfl
    | some g => cases keep : p g <;> simp [Option.filter, keep]

theorem HostCtx.PartsFit.narrowed {c d : HostCtx} {table : TargetId → TableEntry} {gs : List (List SubEntry)}
    {o : Option (List SubEntry)} (fit : c.PartsFit table gs o) (p : List SubEntry → Bool)
    (chain : d.chain.isSome = true → d.chain = c.chain) (some : d.chain.isSome = o.any p) :
    d.PartsFit table (gs.filter p) (o.filter p) := by
  refine ⟨fun g hg => fit.parts g ?_, fun g hg => ?_⟩
  · rcases List.mem_append.1 hg with closed | last
    · exact List.mem_append_left _ (List.mem_of_mem_filter closed)
    · exact List.mem_append_right _ (Option.mem_toList.2 (Option.mem_filter_iff.1 (Option.mem_toList.1 last)).1)
  · obtain ⟨mem, keep⟩ := Option.mem_filter_iff.1 hg
    have stays : d.chain.isSome = true := by
      rw [some, Option.mem_def.1 mem]
      exact keep
    rw [chain stays]
    exact fit.opened g mem

/-- What a filter of entries makes of a queue whose parts it keeps or drops whole. -/
theorem flatten_filter_of_parts {gs : List (List SubEntry)} {q : SubEntry → Bool} {p : List SubEntry → Bool}
    (parts : ∀ g ∈ gs, g.filter q = if p g then g else []) : gs.flatten.filter q = (gs.filter p).flatten := by
  induction gs with
  | nil => rfl
  | cons g gs ih =>
    have here := parts g List.mem_cons_self
    rw [List.flatten_cons, List.filter_append, ih fun k hk => parts k (List.mem_cons_of_mem g hk), here]
    cases keep : p g <;> simp [keep]

theorem filter_eq_of_uniform {g : List SubEntry} {q : SubEntry → Bool} (ne : g ≠ []) (same : g.all q = true ∨ ∀ e ∈ g, q e = false) :
    g.filter q = if g.any q then g else [] := by
  rcases same with all | none
  · have some : g.any q = true := by
      obtain ⟨e, he⟩ := List.exists_mem_of_ne_nil g ne
      exact List.any_eq_true.2 ⟨e, he, List.all_eq_true.1 all e he⟩
    rw [some, if_pos rfl, List.filter_eq_self.2 (List.all_eq_true.1 all)]
  · have no : g.any q = false := by simpa using none
    rw [no, if_neg Bool.false_ne_true, List.filter_eq_nil_iff.2 (by simpa using none)]

/-- Work is QUEUED as a whole or has no QUEUED entry, and is on a lane as a whole or has no entry there. -/
theorem oneState_uniform {g : List SubEntry} (one : oneState g = true) (q : WorkState → Bool) :
    g.all (fun e => q e.state) = true ∨ ∀ e ∈ g, q e.state = false := by
  have all (w : WorkState) (same : ∀ e ∈ g, e.state = w) :
      g.all (fun e => q e.state) = true ∨ ∀ e ∈ g, q e.state = false := by
    cases keep : q w
    · exact .inr fun e he => by rw [same e he, keep]
    · exact .inl (List.all_eq_true.2 fun e he => by rw [same e he, keep])
  simp only [oneState, Bool.or_eq_true, List.all_eq_true, decide_eq_true_eq, SubEntry.queued] at one
  rcases one with (queued | onA) | onB
  · exact all _ queued
  · exact all _ onA
  · exact all _ onB

/-- A filter of entries by their state keeps or drops every part of a divided queue. -/
theorem HostCtx.Divided.filter_states {c : HostCtx} {gs : List (List SubEntry)} {o : Option (List SubEntry)} (div : c.Divided gs o)
    (q : WorkState → Bool) : c.sq.filter (fun e => q e.state) =
      ((gs ++ o.toList).filter fun g => g.any fun e => q e.state).flatten := by
  rw [div.sq]
  refine flatten_filter_of_parts fun g hg => filter_eq_of_uniform (wholeWork_ne_nil (div.whole g hg)) (oneState_uniform ?_ q)
  rcases List.mem_append.1 hg with closed | last
  · exact div.states g closed
  · exact oneState_of_queued (div.opened g (Option.mem_toList.1 last)).2

/-- The records of a batch have the tags the batch is made with, marked or not. -/
theorem HostCtx.appendRecords_tags (c : HostCtx) (recs : List Completion) :
    (c.appendRecords recs).cq.map (·.tag) = c.cq.map (·.tag) ++ recs.map (·.tag) := by
  rcases c.appendRecords_cq recs with cq | cq
  · rw [cq, List.map_append]
  · rw [cq, List.map_append, markFirstFault_map _ fun _ _ => rfl]

/-- The tags that leave the queue with the parts that end are those of the records. -/
theorem HostCtx.endWork_tags (c : HostCtx) (hit : List SubEntry → Bool) (st : SubEntry → CStatus) (now : Stamp)
    (tags : (c.sq.map (·.desc.tag) ++ c.cq.map (·.tag)).Nodup) :
    ((c.endWork hit st now).sq.map (·.desc.tag) ++ (c.endWork hit st now).cq.map (·.tag)).Nodup := by
  refine List.Perm.nodup ?_ tags
  have parts : (((groups c.sq).filter fun g => !endsGroup hit g).flatten ++
      ((groups c.sq).filter (endsGroup hit)).flatten).Perm c.sq := by
    rw [← List.flatten_append]
    refine (List.Perm.flatten (List.perm_append_comm.trans (List.filter_append_perm (endsGroup hit) _))).trans ?_
    rw [groups_flatten]
  have moved : ((c.endWork hit st now).cq.map (·.tag)) =
      c.cq.map (·.tag) ++ ((groups c.sq).filter (endsGroup hit)).flatten.map (·.desc.tag) := by
    unfold HostCtx.endWork
    rw [HostCtx.appendRecords_tags, List.map_map]
    rfl
  rw [HostCtx.endWork_sq, moved]
  refine ((parts.map (·.desc.tag)).symm.append_right _).trans ?_
  rw [List.map_append, List.append_assoc]
  exact List.perm_append_comm.append_left _

theorem HostCtx.endRun_tags (c : HostCtx) (x : LaneId) (r : Run) (now : Stamp)
    (tags : (c.sq.map (·.desc.tag) ++ c.cq.map (·.tag)).Nodup) :
    ((c.endRun x r now).sq.map (·.desc.tag) ++ (c.endRun x r now).cq.map (·.tag)).Nodup := by
  rw [HostCtx.endRun_sq]
  cases discarded : r.discarded
  · refine List.Perm.nodup ?_ tags
    have parts : ((c.sq.filter fun e => !decide (e.state = .running x)) ++ c.runningOn x).Perm c.sq :=
      List.perm_append_comm.trans (List.filter_append_perm _ _)
    have moved : (c.endRun x r now).cq.map (·.tag) = c.cq.map (·.tag) ++ (c.runningOn x).map (·.desc.tag) := by
      rw [HostCtx.endRun_of_live discarded, HostCtx.appendRecords_tags, List.map_map]
      congr 1
      conv_rhs => rw [← List.zipIdx_map_fst 0 (c.runningOn x), List.map_map]
      rfl
    rw [moved]
    refine ((parts.map (·.desc.tag)).symm.append_right _).trans ?_
    rw [List.map_append, List.append_assoc]
    exact List.perm_append_comm.append_left _
  · rw [HostCtx.endRun_of_discarded discarded]
    exact tags.sublist ((List.filter_sublist.map _).append (List.Sublist.refl _))

/-! ## A part that changes -/

/-- The tags of a queue tell its entries apart. -/
theorem HostCtx.Divided.eq_of_tag {c : HostCtx} {gs : List (List SubEntry)} {o : Option (List SubEntry)} (div : c.Divided gs o)
    {e i : SubEntry} (he : e ∈ c.sq) (hi : i ∈ c.sq) (same : e.desc.tag = i.desc.tag) : e = i :=
  List.inj_on_of_nodup_map (List.Nodup.of_append_left div.tags) he hi same

/-- What a grant or a choice changes is one closed part of the queue and nothing else. -/
theorem HostCtx.Divided.map_item {c : HostCtx} {pre post : List (List SubEntry)} {g : List SubEntry} {o : Option (List SubEntry)}
    (div : c.Divided (pre ++ g :: post) o) (queued : g.all (·.queued) = true) (f : SubEntry → SubEntry) :
    c.sq.map (fun e => if e.isOf g then f e else e) = ((pre ++ g.map f :: post) ++ o.toList).flatten := by
  have item {e : SubEntry} (he : e ∈ c.sq) : e.isOf g = true ↔ e ∈ g := by
    simp only [SubEntry.isOf, Bool.and_eq_true, List.any_eq_true, SubEntry.tagged, decide_eq_true_eq]
    constructor
    · rintro ⟨_, i, hi, same⟩
      have hi' : i ∈ c.sq := by
        rw [div.sq]
        exact List.mem_flatten.2 ⟨g, by simp, hi⟩
      rwa [div.eq_of_tag he hi' same]
    · exact fun mem => ⟨List.all_eq_true.1 queued e mem, e, mem, rfl⟩
  have once : c.sq.Nodup := (List.Nodup.of_append_left div.tags).of_map _
  have sq : c.sq = pre.flatten ++ (g ++ (post ++ o.toList).flatten) := by
    rw [div.sq]
    simp
  have apart (es : List SubEntry) (sub : ∀ e ∈ es, e ∈ c.sq) (out : ∀ e ∈ es, e ∉ g) :
      es.map (fun e => if e.isOf g then f e else e) = es :=
    (List.map_congr_left fun e he => if_neg fun isOf => out e he ((item (sub e he)).1 isOf)).trans (List.map_id' es)
  have inside : g.map (fun e => if e.isOf g then f e else e) = g.map f :=
    List.map_congr_left fun e he => if_pos ((item (by rw [sq]; simp [he])).2 he)
  have split := sq
  rw [sq] at once
  obtain ⟨_, rest, before⟩ := List.nodup_append'.1 once
  obtain ⟨_, _, after⟩ := List.nodup_append'.1 rest
  conv_lhs => rw [split]
  rw [List.map_append, List.map_append, inside,
    apart pre.flatten (fun e he => by rw [sq]; simp [he]) fun e he inG => before he (List.mem_append_left _ inG),
    apart (post ++ o.toList).flatten (fun e he => by rw [sq]; exact List.mem_append_right _ (List.mem_append_right _ he))
      fun e he inG => after inG he]
  simp

/-- A change of entries that leaves their descriptors leaves how they stand in their work. -/
theorem wholeWork_map {f : SubEntry → SubEntry} (desc : ∀ e, (f e).desc = e.desc) (g : List SubEntry) :
    wholeWork (g.map f) = wholeWork g := by
  have same (e : SubEntry) : (f e).continues = e.continues := by simp [SubEntry.continues, desc]
  cases g with
  | nil => rfl
  | cons e es =>
    simp only [List.map_cons, wholeWork, same, List.all_map]
    congr 2
    funext d
    exact same d

theorem isOpen_map {f : SubEntry → SubEntry} (desc : ∀ e, (f e).desc = e.desc) (g : List SubEntry) : isOpen (g.map f) = isOpen g := by
  unfold isOpen
  rw [List.getLast?_map]
  cases g.getLast? <;> simp [desc]

/-- One closed part changes whole. -/
theorem HostCtx.Divided.changed {c d : HostCtx} {pre post : List (List SubEntry)} {g : List SubEntry} {o : Option (List SubEntry)}
    (div : c.Divided (pre ++ g :: post) o) (queued : g.all (·.queued) = true) {f : SubEntry → SubEntry}
    (desc : ∀ e, (f e).desc = e.desc) (one : oneState (g.map f) = true)
    (sq : d.sq = c.sq.map fun e => if e.isOf g then f e else e) (chain : d.chain = c.chain) (cq : d.cq = c.cq) :
    d.Divided (pre ++ g.map f :: post) o := by
  have tags : d.sq.map (·.desc.tag) = c.sq.map (·.desc.tag) := by
    rw [sq, List.map_map]
    refine List.map_congr_left fun e _ => ?_
    simp only [Function.comp_apply]
    split
    · rw [desc]
    · rfl
  refine ⟨by rw [sq, div.map_item queued f], ?_, ?_, ?_, div.opened, by rw [chain]; exact div.chain, by rw [tags, cq]; exact div.tags⟩
  · intro k hk
    simp only [List.mem_append, List.mem_cons] at hk
    rcases hk with (hk | rfl | hk) | hk
    · exact div.whole k (by simp [hk])
    · rw [wholeWork_map desc]
      exact div.whole g (by simp)
    · exact div.whole k (by simp [hk])
    · exact div.whole k (by simp only [List.mem_append]; exact .inr hk)
  · intro k hk
    simp only [List.mem_append, List.mem_cons] at hk
    rcases hk with hk | rfl | hk
    · exact div.states k (by simp [hk])
    · exact one
    · exact div.states k (by simp [hk])
  · intro k hk
    simp only [List.mem_append, List.mem_cons] at hk
    rcases hk with hk | rfl | hk
    · exact div.closed k (by simp [hk])
    · rw [isOpen_map desc]
      exact div.closed g (by simp)
    · exact div.closed k (by simp [hk])

theorem HostCtx.PartsFit.changed {c d : HostCtx} {table : TargetId → TableEntry} {pre post : List (List SubEntry)}
    {g : List SubEntry} {o : Option (List SubEntry)} (fit : c.PartsFit table (pre ++ g :: post) o) {f : SubEntry → SubEntry}
    (part : partFits table (g.map f)) (chain : d.chain = c.chain) : d.PartsFit table (pre ++ g.map f :: post) o := by
  refine ⟨fun k hk => ?_, by rw [chain]; exact fit.opened⟩
  simp only [List.mem_append, List.mem_cons] at hk
  rcases hk with (hk | rfl | hk) | hk
  · exact fit.parts k (by simp [hk])
  · exact part
  · exact fit.parts k (by simp [hk])
  · exact fit.parts k (by simp only [List.mem_append]; exact .inr hk)

/-- An item is one of the closed parts. -/
theorem HostCtx.Divided.split_item {c : HostCtx} {gs : List (List SubEntry)} {o : Option (List SubEntry)} (div : c.Divided gs o)
    {g : List SubEntry} (mem : g ∈ groups c.sq) (item : isItem g = true) :
    g.all (·.queued) = true ∧ ∃ pre post, gs = pre ++ g :: post := by
  simp only [isItem, Bool.and_eq_true, Bool.not_eq_true'] at item
  obtain ⟨⟨queued, closed⟩, _⟩ := item
  refine ⟨queued, List.append_of_mem ?_⟩
  rw [div.groups_eq] at mem
  rcases List.mem_append.1 mem with here | last
  · exact here
  · rw [(div.opened g (Option.mem_toList.1 last)).1] at closed
    cases closed

end Sys2Proof.Machine
end

section
/-! PROOFS. Every move of a host, and the acceptance of a descriptor, keeps the form of the Submission Queue and its fit to the table
(R14, R29, R34, R70, R82, R83). -/

namespace Sys2Proof.Machine

/-- A host whose queue has its form, and fits whatever table the host before it fits. -/
def HostCtx.DividesLike (d c : HostCtx) (gs : List (List SubEntry)) (o : Option (List SubEntry)) : Prop :=
  ∃ gs' o', d.Divided gs' o' ∧ ∀ table, c.PartsFit table gs o → d.PartsFit table gs' o'

/-- Parts leave whole. -/
theorem HostCtx.Divided.like_narrowed {c d : HostCtx} {gs : List (List SubEntry)} {o : Option (List SubEntry)}
    (div : c.Divided gs o) (p : List SubEntry → Bool) (sq : d.sq = ((gs ++ o.toList).filter p).flatten)
    (some : d.chain.isSome = o.any p) (chain : d.chain.isSome = true → d.chain = c.chain)
    (tags : (d.sq.map (·.desc.tag) ++ d.cq.map (·.tag)).Nodup) : d.DividesLike c gs o :=
  ⟨_, _, div.narrowed p sq some tags, fun _ fit => fit.narrowed p chain some⟩

/-- Queue, records and chain stay. -/
theorem HostCtx.Divided.like_same {c d : HostCtx} {gs : List (List SubEntry)} {o : Option (List SubEntry)} (div : c.Divided gs o)
    (sq : d.sq = c.sq) (chain : d.chain = c.chain) (tags : (d.sq.map (·.desc.tag) ++ d.cq.map (·.tag)).Nodup) :
    d.DividesLike c gs o :=
  ⟨gs, o, ⟨sq.trans div.sq, div.whole, div.states, div.closed, div.opened, by rw [chain]; exact div.chain, tags⟩,
    fun _ fit => ⟨fit.parts, by rw [chain]; exact fit.opened⟩⟩

/-! ## Queued work that ends (R36, R44) -/

/-- The open chain is among the parts that end exactly when it is picked. -/
theorem HostCtx.Divided.any_isOpen {c : HostCtx} {gs : List (List SubEntry)} {o : Option (List SubEntry)} (div : c.Divided gs o)
    (hit : List SubEntry → Bool) : ((gs ++ o.toList).filter (endsGroup hit)).any isOpen = o.any hit := by
  have closed : (gs.filter (endsGroup hit)).any isOpen = false := by
    rw [List.any_eq_false]
    intro g hg isO
    rw [div.closed g (List.mem_of_mem_filter hg)] at isO
    cases isO
  rw [List.filter_append, List.any_append, closed, Bool.false_or]
  cases o with
  | none => rfl
  | some g =>
    obtain ⟨isO, queued⟩ := div.opened g rfl
    cases picked : hit g <;> simp [endsGroup, queued, picked, isO]

theorem HostCtx.endWork_chain (c : HostCtx) (hit : List SubEntry → Bool) (st : SubEntry → CStatus) (now : Stamp) :
    (c.endWork hit st now).chain = if ((groups c.sq).filter (endsGroup hit)).any isOpen then none else c.chain := by
  simp [HostCtx.endWork]

theorem HostCtx.Divided.any_not_ends {c : HostCtx} {gs : List (List SubEntry)} {o : Option (List SubEntry)} (div : c.Divided gs o)
    (hit : List SubEntry → Bool) : o.any (fun g => !endsGroup hit g) = (o.isSome && !o.any hit) := by
  cases o with
  | none => rfl
  | some g => simp [endsGroup, (div.opened g rfl).2]

theorem HostCtx.Divided.like_ended {c : HostCtx} {gs : List (List SubEntry)} {o : Option (List SubEntry)} (div : c.Divided gs o)
    (hit : List SubEntry → Bool) (st : SubEntry → CStatus) (now : Stamp) : (c.endWork hit st now).DividesLike c gs o := by
  have chain := c.endWork_chain hit st now
  rw [div.groups_eq, div.any_isOpen] at chain
  refine div.like_narrowed (fun g => !endsGroup hit g) ?_ ?_ (fun stays => ?_) (c.endWork_tags hit st now div.tags)
  · rw [HostCtx.endWork_sq, div.groups_eq]
  · rw [chain, div.any_not_ends, div.chain]
    cases o.any hit <;> simp
  · rw [chain] at stays ⊢
    split at stays
    · cases stays
    · next kept => rw [if_neg kept]

theorem HostCtx.Divided.like_abandoned {c : HostCtx} {gs : List (List SubEntry)} {o : Option (List SubEntry)} (div : c.Divided gs o)
    (st : SubEntry → CStatus) (now : Stamp) : (HostCtx.endWork { c with chain := none } isOpen st now).DividesLike c gs o := by
  have chain : (HostCtx.endWork { c with chain := none } isOpen st now).chain = none := by
    rw [HostCtx.endWork_chain]
    split <;> rfl
  have opened : o.any isOpen = o.isSome := by
    cases o with
    | none => rfl
    | some g => simp [(div.opened g rfl).1]
  refine div.like_narrowed (fun g => !endsGroup isOpen g) ?_ ?_ (fun stays => ?_)
    (HostCtx.endWork_tags { c with chain := none } isOpen st now div.tags)
  · rw [HostCtx.endWork_sq, ← div.groups_eq]
  · rw [chain, div.any_not_ends, opened]
    cases o.isSome <;> rfl
  · rw [chain] at stays
    cases stays

/-! ## A run that ends, and a teardown (R102, R173) -/

/-- The states of a queue that a filter keeps keep the open chain when they keep QUEUED work. -/
theorem HostCtx.Divided.any_queued {c : HostCtx} {gs : List (List SubEntry)} {o : Option (List SubEntry)} (div : c.Divided gs o)
    (q : WorkState → Bool) : o.any (fun g => g.any fun e => q e.state) = (o.isSome && q .queued) := by
  cases o with
  | none => rfl
  | some g =>
    obtain ⟨_, queued⟩ := div.opened g rfl
    have state : ∀ e ∈ g, e.state = .queued := by simpa [SubEntry.queued] using queued
    obtain ⟨e, he⟩ := List.exists_mem_of_ne_nil g (wholeWork_ne_nil (div.whole g (by simp)))
    cases keep : q .queued
    · simpa using fun i hi => by rw [state i hi, keep]
    · simpa using ⟨e, he, by rw [state e he, keep]⟩

theorem HostCtx.Divided.like_runEnded {c : HostCtx} {gs : List (List SubEntry)} {o : Option (List SubEntry)} (div : c.Divided gs o)
    (x : LaneId) (r : Run) (now : Stamp) : (c.endRun x r now).DividesLike c gs o := by
  have chain : (c.endRun x r now).chain = c.chain := by
    cases discarded : r.discarded
    · rw [HostCtx.endRun_of_live discarded, HostCtx.appendRecords_chain]
    · rw [HostCtx.endRun_of_discarded discarded]
  refine div.like_narrowed (fun g => g.any fun e => !decide (e.state = .running x)) ?_ ?_ (fun _ => chain)
    (c.endRun_tags x r now div.tags)
  · rw [HostCtx.endRun_sq]
    exact div.filter_states fun w => !decide (w = .running x)
  · rw [chain, div.any_queued fun w => !decide (w = .running x), div.chain]
    simp

theorem HostCtx.Divided.like_cleared {c : HostCtx} {gs : List (List SubEntry)} {o : Option (List SubEntry)} (div : c.Divided gs o) :
    c.clearWork.DividesLike c gs o := by
  refine div.like_narrowed (fun g => g.any fun e => !decide (e.state = .queued)) ?_ ?_ (fun stays => nomatch stays)
    (div.tags.sublist ((List.filter_sublist.map _).append (List.nil_sublist _)))
  · exact div.filter_states fun w => !decide (w = .queued)
  · rw [div.any_queued fun w => !decide (w = .queued)]
    simp [HostCtx.clearWork]

/-! ## A choice (R82, R83) -/

theorem HostCtx.Divided.like_bypassed {c : HostCtx} {gs : List (List SubEntry)} {o : Option (List SubEntry)} (div : c.Divided gs o)
    {g : List SubEntry} (mem : g ∈ groups c.sq) (item : isItem g = true) : (c.raiseBypass g).DividesLike c gs o := by
  obtain ⟨queued, pre, post, rfl⟩ := div.split_item mem item
  let raised (e : SubEntry) : SubEntry := { e with bypass := min Config.urgentBypass (e.bypass + 1) }
  have one : oneState (g.map raised) = true := oneState_of_queued (by rw [List.all_map]; exact queued)
  refine ⟨_, _, div.changed (f := raised) queued (fun _ => rfl) one rfl rfl rfl, fun table fit => fit.changed ?_ rfl⟩
  have part := fit.parts g (by simp)
  constructor
  · simpa [raised] using part.defined
  · simp [raised, Config.urgentBypass]
  · simpa [raised] using part.lane
  · simp only [List.forall_mem_map]
    intro e he i hi
    simp only [raised, part.bypass e he i hi]

theorem HostCtx.Divided.like_started {c : HostCtx} {gs : List (List SubEntry)} {o : Option (List SubEntry)} (div : c.Divided gs o)
    {g : List SubEntry} (x : LaneId) (mem : g ∈ groups c.sq) (item : isItem g = true) : (c.startItem x g).DividesLike c gs o := by
  obtain ⟨queued, pre, post, rfl⟩ := div.split_item mem item
  let started (e : SubEntry) : SubEntry := { e with state := .running x }
  have one : oneState (g.map started) = true := by cases x <;> simp [oneState, started]
  refine ⟨_, _, div.changed (f := started) queued (fun _ => rfl) one rfl rfl rfl, fun table fit => fit.changed ?_ rfl⟩
  have part := fit.parts g (by simp)
  constructor
  · simpa [started] using part.defined
  · simpa [started] using part.bound
  · simpa [started] using part.lane
  · simpa [started] using part.bypass

/-! ## Every move -/

theorem HostMove.like {c d : HostCtx} (m : HostMove c d) {gs : List (List SubEntry)} {o : Option (List SubEntry)}
    (div : c.Divided gs o) : d.DividesLike c gs o := by
  have tags := div.tags
  cases m with
  | aside same => exact div.like_same same.sq same.chain (by rwa [same.sq, same.cq])
  | notice => exact div.like_same (by simp) (by simp) (by simpa using tags)
  | ended => exact div.like_ended _ _ _
  | abandoned => exact div.like_abandoned _ _
  | runEnded => exact div.like_runEnded _ _ _
  | bypassed mem item => exact div.like_bypassed mem item
  | started x mem item => exact div.like_started x mem item
  | cleared => exact div.like_cleared
  | shown => exact div.like_same rfl rfl tags
  | retired queue =>
    refine div.like_same rfl rfl (tags.sublist ((List.Sublist.refl _).append (List.Sublist.map _ ?_)))
    rw [queue]
    exact List.sublist_cons_self _ _
  | noticeShown => exact div.like_same rfl rfl tags
  | noticeAcked => exact div.like_same rfl rfl tags

theorem HostMove.queueFits {c d : HostCtx} (m : HostMove c d) (fits : c.queueFits = true) : d.queueFits = true := by
  obtain ⟨gs, o, div⟩ := c.queueFits_iff.1 fits
  obtain ⟨gs', o', div', _⟩ := m.like div
  exact d.queueFits_iff.2 ⟨gs', o', div'⟩

theorem HostMove.workFits {c d : HostCtx} (m : HostMove c d) {table : TargetId → TableEntry}
    (fits : c.queueFits = true ∧ c.workFits table) : d.queueFits = true ∧ d.workFits table := by
  obtain ⟨gs, o, div⟩ := c.queueFits_iff.1 fits.1
  obtain ⟨gs', o', div', fit⟩ := m.like div
  exact ⟨d.queueFits_iff.2 ⟨gs', o', div'⟩, (div'.workFits_iff table).2 (fit table ((div.workFits_iff table).1 fits.2))⟩

/-! ## The acceptance of a descriptor (R33, R34) -/

/-- A host with an entry at the tail of its queue, the chain-assembly record being this and its credit taken. -/
def HostCtx.joined (c : HostCtx) (e : SubEntry) (chain : Option OpenChain) : HostCtx :=
  { c with sq := c.sq ++ [e], credits := c.credits - 1, chain := chain }

theorem HostCtx.joined_tags {c : HostCtx} {e : SubEntry} (fresh : c.tagOpen e.desc.tag = false)
    (tags : (c.sq.map (·.desc.tag) ++ c.cq.map (·.tag)).Nodup) :
    ((c.sq ++ [e]).map (·.desc.tag) ++ c.cq.map (·.tag)).Nodup := by
  have new : ¬((∃ w ∈ c.sq, w.desc.tag = e.desc.tag) ∨ ∃ r ∈ c.cq, r.tag = e.desc.tag) := by
    rw [← HostCtx.tagOpen_iff, fresh]
    exact Bool.false_ne_true
  have perm : (c.sq.map (·.desc.tag) ++ [e.desc.tag] ++ c.cq.map (·.tag)).Perm
      (e.desc.tag :: (c.sq.map (·.desc.tag) ++ c.cq.map (·.tag))) := by
    rw [List.append_assoc]
    exact List.perm_middle
  rw [List.map_append]
  refine perm.symm.nodup (List.nodup_cons.2 ⟨fun mem => new ?_, tags⟩)
  rcases List.mem_append.1 mem with inSq | inCq
  · exact .inl (List.mem_map.1 inSq)
  · exact .inr (List.mem_map.1 inCq)

/-- What an accepted entry finds of its host: a QUEUED entry with a fresh tag that goes on with an open chain or finds none. -/
structure HostCtx.Joins (c : HostCtx) (e : SubEntry) (chain : Option OpenChain) : Prop where
  queued : e.queued = true
  fresh : c.tagOpen e.desc.tag = false
  order : if e.continues then c.chain.isSome = true else c.chain = none
  chain : chain.isSome = isOpen [e]

theorem isOpen_append_singleton (g : List SubEntry) (e : SubEntry) : isOpen (g ++ [e]) = isOpen [e] := by
  simp [isOpen]

theorem wholeWork_append_singleton {g : List SubEntry} {e : SubEntry} (whole : wholeWork g = true) (joins : e.continues = true) :
    wholeWork (g ++ [e]) = true := by
  cases g with
  | nil => cases whole
  | cons d ds =>
    obtain ⟨first, rest⟩ := (wholeWork_cons d ds).1 whole
    refine (wholeWork_cons d (ds ++ [e])).2 ⟨first, fun i hi => ?_⟩
    rcases List.mem_append.1 hi with old | new
    · exact rest i old
    · rwa [List.mem_singleton.1 new]

/-- A QUEUED part at the tail, closed or open as it is. -/
theorem HostCtx.divided_withLast {d : HostCtx} {gs : List (List SubEntry)} {g k : List SubEntry} (hk : k = gs.flatten)
    (whole : ∀ i ∈ gs, wholeWork i = true) (states : ∀ i ∈ gs, oneState i = true) (closed : ∀ i ∈ gs, isOpen i = false)
    (last : wholeWork g = true) (queued : g.all (·.queued) = true) (sq : d.sq = k ++ g) (chain : d.chain.isSome = isOpen g)
    (tags : (d.sq.map (·.desc.tag) ++ d.cq.map (·.tag)).Nodup) :
    ∃ gs' o', d.Divided gs' o' ∧ gs' ++ o'.toList = gs ++ [g] ∧ ∀ i ∈ o', i = g := by
  have wholes : ∀ i ∈ gs ++ [g], wholeWork i = true := fun i hi => by
    rcases List.mem_append.1 hi with before | here
    · exact whole i before
    · rwa [List.mem_singleton.1 here]
  have flat : d.sq = (gs ++ [g]).flatten := by rw [sq, hk]; simp
  cases isO : isOpen g
  · refine ⟨gs ++ [g], none, ⟨by simpa using flat, by simpa using wholes, fun i hi => ?_, fun i hi => ?_, fun _ no => (nomatch no),
      by rw [chain, isO]; rfl, tags⟩, by simp, fun _ no => nomatch no⟩
    · rcases List.mem_append.1 hi with before | here
      · exact states i before
      · rw [List.mem_singleton.1 here]
        exact oneState_of_queued queued
    · rcases List.mem_append.1 hi with before | here
      · exact closed i before
      · rwa [List.mem_singleton.1 here]
  · refine ⟨gs, some g, ⟨flat, wholes, states, closed, ?_, by rw [chain, isO]; rfl, tags⟩, rfl, ?_⟩
    · rintro i ⟨⟩
      exact ⟨isO, queued⟩
    · rintro i ⟨⟩
      rfl

/-- What the fit to a table needs of the entry that joins. -/
structure joinFits (table : TargetId → TableEntry) (c : HostCtx) (e : SubEntry) (chain : Option OpenChain) : Prop where
  defined : (table e.desc.target).state ≠ .undefined
  bypass : e.bypass = 0
  lane : e.continues = true → c.chain.map (·.lane) = some (table e.desc.target).cfg.lane
  chain : chain.isSome = true → chain.map (·.lane) = some (table e.desc.target).cfg.lane

theorem partFits_singleton {table : TargetId → TableEntry} {c : HostCtx} {e : SubEntry} {chain : Option OpenChain}
    (fits : joinFits table c e chain) : partFits table [e] := by
  constructor
  · simpa using fits.defined
  · simp [fits.bypass]
  · simp
  · simp

theorem partFits_append_singleton {table : TargetId → TableEntry} {c : HostCtx} {g : List SubEntry} {e : SubEntry}
    {chain : Option OpenChain} (part : partFits table g)
    (opened : ∀ d ∈ g, d.bypass = 0 ∧ c.chain.map (·.lane) = some (table d.desc.target).cfg.lane) (fits : joinFits table c e chain)
    (joins : e.continues = true) : partFits table (g ++ [e]) := by
  have all (P : SubEntry → Prop) (old : ∀ d ∈ g, P d) (new : P e) : ∀ d ∈ g ++ [e], P d := fun d hd => by
    rcases List.mem_append.1 hd with inG | here
    · exact old d inG
    · rwa [List.mem_singleton.1 here]
  have lane := all (fun d => (table d.desc.target).cfg.lane = (table e.desc.target).cfg.lane)
    (fun d hd => Option.some.inj ((opened d hd).2.symm.trans (fits.lane joins))) rfl
  have bypass := all (fun d => d.bypass = 0) (fun d hd => (opened d hd).1) fits.bypass
  exact ⟨all _ part.defined fits.defined, fun d hd => by rw [bypass d hd]; exact Nat.zero_le 8,
    fun d hd i hi => (lane d hd).trans (lane i hi).symm, fun d hd i hi => (bypass d hd).trans (bypass i hi).symm⟩

/-- The entry of an accepted descriptor keeps the form of the queue and its fit. -/
theorem HostCtx.Divided.accepted {c : HostCtx} {gs : List (List SubEntry)} {o : Option (List SubEntry)} (div : c.Divided gs o)
    {e : SubEntry} {chain : Option OpenChain} (joins : c.Joins e chain) :
    ∃ gs' o', (c.joined e chain).Divided gs' o'
      ∧ ∀ table, joinFits table c e chain → c.PartsFit table gs o → (c.joined e chain).PartsFit table gs' o' := by
  have tags := HostCtx.joined_tags joins.fresh div.tags
  have old : ∀ i ∈ gs, wholeWork i = true := fun i hi => div.whole i (List.mem_append_left _ hi)
  have order := joins.order
  cases goesOn : e.continues
  · rw [goesOn, if_neg Bool.false_ne_true] at order
    have none : o = none := by
      have := div.chain
      rwa [order, Option.isSome_none, Option.isSome_eq_false_iff, Option.isNone_iff_eq_none] at this
    subst none
    have last : wholeWork [e] = true := (wholeWork_cons e []).2 ⟨goesOn, by simp⟩
    obtain ⟨gs', o', div', parts, opens⟩ := HostCtx.divided_withLast (d := c.joined e chain) (by simpa using div.sq) old
      div.states div.closed last (by simpa using joins.queued) rfl joins.chain tags
    refine ⟨gs', o', div', fun table fits fit => ⟨fun i hi => ?_, fun i hi d hd => ?_⟩⟩
    · rw [parts] at hi
      rcases List.mem_append.1 hi with before | here
      · exact fit.parts i (List.mem_append_left _ before)
      · rw [List.mem_singleton.1 here]
        exact partFits_singleton fits
    · have some : (c.joined e chain).chain.isSome = true := by
        rw [← div'.chain, Option.mem_def.1 hi]
        rfl
      rw [opens i hi, List.mem_singleton] at hd
      subst hd
      exact ⟨fits.bypass, fits.chain some⟩
  · rw [goesOn, if_pos rfl] at order
    have some : o.isSome = true := div.chain.trans order
    obtain ⟨g, rfl⟩ := Option.isSome_iff_exists.1 some
    obtain ⟨_, queued⟩ := div.opened g rfl
    have last := wholeWork_append_singleton (div.whole g (by simp)) goesOn
    obtain ⟨gs', o', div', parts, opens⟩ := HostCtx.divided_withLast (d := c.joined e chain) (k := gs.flatten) rfl old
      div.states div.closed last (by rw [List.all_append, queued]; simpa using joins.queued)
      (by rw [HostCtx.joined, div.sq]; simp) (by rw [isOpen_append_singleton]; exact joins.chain) tags
    refine ⟨gs', o', div', fun table fits fit => ?_⟩
    have part := partFits_append_singleton (fit.parts g (by simp)) (fit.opened g rfl) fits goesOn
    refine ⟨fun i hi => ?_, fun i hi d hd => ?_⟩
    · rw [parts] at hi
      rcases List.mem_append.1 hi with before | here
      · exact fit.parts i (List.mem_append_left _ before)
      · rwa [List.mem_singleton.1 here]
    · have open' : (c.joined e chain).chain.isSome = true := by
        rw [← div'.chain, Option.mem_def.1 hi]
        rfl
      rw [opens i hi] at hd
      refine ⟨(part.bypass d hd e (by simp)).trans fits.bypass, ?_⟩
      rw [part.lane d hd e (by simp)]
      exact fits.chain open'

end Sys2Proof.Machine
end

section
/-! PROOFS. What a rule can do to the hosts and the table, for every operation the rules share: the hosts make moves, and a table entry keeps
its settings, whether it is defined, and the bounds of its fault count and its wait list. -/

namespace Sys2Proof.Machine

/-! ## What a table entry keeps -/

/-- No host waits twice, and none of them holds the lease (R50). -/
structure Lease.WaitersFit (l : Lease) : Prop where
  once : (l.waiters.map (·.host)).Nodup
  others : ∀ w ∈ l.waiters, l.state.holder ≠ some w.host

theorem Lease.waitersFit_iff (l : Lease) : l.WaitersFit ↔
    (l.waiters.map (·.host)).Nodup ∧ ∀ w ∈ l.waiters, l.state ≠ .held w.host ∧ ∀ r, l.state ≠ .ending w.host r := by
  have same (h : HostId) : l.state.holder ≠ some h ↔ l.state ≠ .held h ∧ ∀ r, l.state ≠ .ending h r := by
    rw [Ne, LeaseState.holder_eq_some_iff, not_or, not_exists]
  simp only [← same]
  exact ⟨fun fit => ⟨fit.once, fit.others⟩, fun ⟨once, others⟩ => ⟨once, others⟩⟩

/-- The wait list of a lease record keeps its bound and its form. -/
structure Lease.Kept (l l' : Lease) : Prop where
  bound : l.waiters.length ≤ Config.waitListCapacity → l'.waiters.length ≤ Config.waitListCapacity
  fits : l.WaitersFit → l'.WaitersFit

theorem Lease.Kept.refl (l : Lease) : l.Kept l := ⟨id, id⟩
theorem Lease.Kept.trans {l k m : Lease} (a : l.Kept k) (b : k.Kept m) : l.Kept m := ⟨b.bound ∘ a.bound, b.fits ∘ a.fits⟩

/-- Waiters leave, and nobody new holds the lease. -/
theorem Lease.kept_of_sublist {l l' : Lease} (waiters : l'.waiters.Sublist l.waiters)
    (holder : ∀ h, l'.state.holder = some h → l.state.holder = some h) : l.Kept l' := by
  refine ⟨waiters.length_le.trans, fun fit => ⟨fit.once.sublist (waiters.map _), fun w hw held => ?_⟩⟩
  exact fit.others w (waiters.subset hw) (holder _ held)

theorem Lease.kept_without (l : Lease) (h : HostId) : l.Kept (l.without h) :=
  Lease.kept_of_sublist List.filter_sublist fun _ held => held

/-- A lease record that goes FREE, or stays with its holder. -/
theorem Lease.kept_of_holder {l : Lease} {st : LeaseState} (holder : ∀ h, st.holder = some h → l.state.holder = some h) :
    l.Kept { l with state := st } :=
  Lease.kept_of_sublist (List.Sublist.refl _) holder

theorem Lease.kept_freed (l : Lease) : l.Kept { l with state := .free } := Lease.kept_of_holder fun _ none => nomatch none

theorem Lease.kept_ending {l : Lease} {h : HostId} (held : l.state.holder = some h) (r : EndReason) :
    l.Kept { l with state := .ending h r } :=
  Lease.kept_of_holder fun _ own => held.trans own

/-- The head waiter of a FREE lease is granted. -/
theorem Lease.kept_checked (l : Lease) (now : Nat) (blocked : HostId → Bool) : l.Kept (l.checked now blocked) := by
  rcases l.grants_cases blocked with ⟨w, ws, granted⟩ | none
  · rw [Lease.checked_of_grants granted]
    obtain ⟨_, waits, _⟩ := granted
    refine ⟨fun bound => ?_, fun fit => ?_⟩
    · rw [waits] at bound
      exact Nat.le_of_succ_le bound
    · have once := fit.once
      rw [waits, List.map_cons, List.nodup_cons] at once
      refine ⟨once.2, fun v hv held => once.1 ?_⟩
      rw [Option.some.inj held]
      exact List.mem_map_of_mem hv
  · rw [Lease.checked_of_none none]
    exact .refl l

theorem Lease.kept_afterRun (l : Lease) (h : HostId) (now : Nat) (blocked : HostId → Bool) : l.Kept (l.afterRun h now blocked) := by
  unfold Lease.afterRun
  split
  · split
    · exact l.kept_freed.trans (Lease.kept_checked _ now blocked)
    · exact .refl l
  all_goals exact l.kept_checked now blocked

theorem Lease.kept_tornDown (l : Lease) (h : HostId) (now : Nat) (touched : Bool) (blocked : HostId → Bool) :
    l.Kept (l.tornDown h now touched blocked) := by
  have left := l.kept_without h
  rcases l.teardown_cases h with held | ⟨r, ending⟩ | ⟨free, head⟩ | ⟨notHeld, notEnding, notHead⟩
  · rw [Lease.tornDown_of_held held]
    split
    · exact left.trans (Lease.kept_ending (l := l.without h) (by simp [Lease.without, held, LeaseState.holder]) _)
    · exact (left.trans (Lease.kept_freed _)).trans (Lease.kept_checked _ now blocked)
  · rw [Lease.tornDown_of_ending ending]
    exact left.trans (Lease.kept_ending (l := l.without h) (by simp [Lease.without, ending, LeaseState.holder]) _)
  · rw [Lease.tornDown_of_head free head]
    exact left.trans (Lease.kept_checked _ now blocked)
  · rw [Lease.tornDown_of_other notHeld notEnding notHead]
    exact left

/-- A table entry keeps its settings, whether it is defined, and its bounds. -/
structure TableEntry.Kept (e e' : TableEntry) : Prop where
  cfg : e'.cfg = e.cfg
  defined : e'.state = .undefined ↔ e.state = .undefined
  faults : e.faults ≤ e.cfg.threshold → e'.faults ≤ e'.cfg.threshold
  lease : e.lease.Kept e'.lease

theorem TableEntry.Kept.refl (e : TableEntry) : e.Kept e := ⟨rfl, Iff.rfl, id, .refl _⟩
theorem TableEntry.Kept.trans {e d f : TableEntry} (a : e.Kept d) (b : d.Kept f) : e.Kept f :=
  ⟨b.cfg.trans a.cfg, b.defined.trans a.defined, b.faults ∘ a.faults, a.lease.trans b.lease⟩

theorem TableEntry.kept_lease {e : TableEntry} {l : Lease} (lease : e.lease.Kept l) : e.Kept { e with lease := l } :=
  ⟨rfl, Iff.rfl, id, lease⟩

/-- A defined entry takes another state but UNDEFINED. -/
theorem TableEntry.kept_state {e : TableEntry} {st : EntryState} (before : e.state ≠ .undefined) (after : st ≠ .undefined) :
    e.Kept { e with state := st } :=
  ⟨rfl, iff_of_false after before, id, .refl _⟩

theorem TableEntry.kept_tallied (e : TableEntry) (st : CStatus) (probe : Bool) (threshold : Nat) :
    e.Kept (e.tallied st probe threshold) := by
  rcases st.tally_cases with rfl | fault | ⟨notOk, notAddr, notStretch⟩
  · refine ⟨rfl, ?_, fun _ => Nat.zero_le _, .refl _⟩
    simp only [TableEntry.tallied]
    split
    · next restored => simp [restored.2]
    · exact Iff.rfl
  · rw [TableEntry.tallied_fault e fault]
    refine ⟨rfl, ?_, fun _ => Nat.min_le_right _ _, .refl _⟩
    dsimp only
    split
    · next quarantined => simp [quarantined.2.2]
    · exact Iff.rfl
  · rw [TableEntry.tallied_other e notOk notAddr notStretch]
    exact .refl e

/-! ## What an operation leaves of the state -/

/-- The hosts make moves, every table entry is kept, and the loader and the waiting commands stay. -/
structure State.Moved (s t : State) : Prop where
  hosts : ∀ g, HostMoves (s.host g) (t.host g)
  entries : ∀ v, (s.entry v).Kept (t.entry v)
  loader : t.loader = s.loader
  pending : t.pending = s.pending

theorem State.Moved.refl (s : State) : s.Moved s := ⟨fun _ => .refl, fun _ => .refl _, rfl, rfl⟩
theorem State.Moved.trans {s t u : State} (a : s.Moved t) (b : t.Moved u) : s.Moved u :=
  ⟨fun g => (a.hosts g).trans (b.hosts g), fun v => (a.entries v).trans (b.entries v), b.loader.trans a.loader,
    b.pending.trans a.pending⟩

/-- A fold of operations that each make moves. -/
theorem Moved.foldl {α : Type} (f : State → α → State) (each : ∀ (s : State) (a : α), s.Moved (f s a)) (as : List α) (s : State) :
    s.Moved (as.foldl f s) := by
  induction as generalizing s with
  | nil => exact .refl s
  | cons a as ih => exact (each s a).trans (ih (f s a))

theorem hostLaw_moves (c : HostCtx) : HostLaw (HostMoves c) :=
  ⟨fun d k subj b now before => before.tail (.notice d k subj b now), fun d hit st now before => before.tail (.ended d hit st now)⟩

theorem State.RecordsOnly.moved {s t : State} (only : s.RecordsOnly t) (entries : ∀ v, (s.entry v).Kept (t.entry v)) : s.Moved t :=
  ⟨fun g => only.keeps _ (hostLaw_moves _) g .refl, entries, only.rest.loader, only.rest.pending⟩
theorem State.TablesOnly.moved {s t : State} (only : s.TablesOnly t) (entries : ∀ v, (s.entry v).Kept (t.entry v)) : s.Moved t :=
  only.records.moved entries
theorem State.HostsOnly.moved {s t : State} (only : s.HostsOnly t) : s.Moved t :=
  only.tables.moved fun v => by rw [only.rest.entry]; exact .refl _

theorem State.updHost_moved {s : State} {h : HostId} {f : HostCtx → HostCtx} (move : HostMove (s.host h) (f (s.host h))) :
    s.Moved (s.updHost h f) := by
  refine ⟨fun g => ?_, fun _ => .refl _, rfl, rfl⟩
  rw [State.updHost_host]
  split
  · next own => rw [own]; exact move.moves
  · exact .refl

theorem State.updPort_moved (s : State) (h : HostId) (f : Port → Port) : s.Moved (s.updPort h f) :=
  State.updHost_moved (.aside ⟨rfl, rfl, rfl, rfl, rfl, rfl, rfl, rfl⟩)

theorem State.updLane_moved (s : State) (x : LaneId) (f : Lane → Lane) : s.Moved (s.updLane x f) := by
  cases x <;> exact ⟨fun _ => .refl, fun _ => .refl _, rfl, rfl⟩

theorem State.withTrace_moved (s : State) (t : Trace) : s.Moved { s with trace := t } :=
  ⟨fun _ => .refl, fun _ => .refl _, rfl, rfl⟩

theorem State.updEntry_moved {s : State} {t : TargetId} {f : TableEntry → TableEntry} (kept : (s.entry t).Kept (f (s.entry t))) :
    s.Moved (s.updEntry t f) :=
  (s.updEntry_only t f).moved fun v => by
    rw [State.updEntry_entry]
    split
    · next own => rw [own]; exact kept
    · exact .refl _

theorem State.updLease_moved {s : State} {t : TargetId} {f : Lease → Lease} (kept : (s.entry t).lease.Kept (f (s.entry t).lease)) :
    s.Moved (s.updLease t f) :=
  State.updEntry_moved (TableEntry.kept_lease kept)

/-- An operation that touches hosts and table and makes `new` of entry t alone. -/
theorem State.TablesOnly.moved_entry {s u : State} (only : s.TablesOnly u) {t : TargetId} {new : TableEntry}
    (entry : ∀ v, u.entry v = if v = t then new else s.entry v) (kept : (s.entry t).Kept new) : s.Moved u :=
  only.moved fun v => by
    rw [entry]
    split
    · next own => rw [own]; exact kept
    · exact .refl _

/-! ## The operations on table and leases -/

theorem State.grantCheck_moved (s : State) (t : TargetId) : s.Moved (s.grantCheck t) :=
  (s.grantCheck_only t).moved_entry (s.grantCheck_entry t) (TableEntry.kept_lease (Lease.kept_checked _ _ _))

theorem State.leaseEnd_moved (s : State) (t : TargetId) (r : EndReason) : s.Moved (s.leaseEnd t r) := by
  by_cases some : ∃ h, (s.entry t).lease.state = .held h
  · obtain ⟨h, held⟩ := some
    refine (s.leaseEnd_only t r).moved_entry (State.leaseEnd_entry held r) (TableEntry.kept_lease ?_)
    split
    · exact Lease.kept_ending (by rw [held]; rfl) r
    · exact (Lease.kept_freed _).trans (Lease.kept_checked _ _ _)
  · rw [State.leaseEnd_of_not_held (fun h held => some ⟨h, held⟩)]
    exact .refl s

theorem State.leaseRunEnd_moved (s : State) (h : HostId) (t : TargetId) : s.Moved (s.leaseRunEnd h t) :=
  (s.leaseRunEnd_only h t).moved_entry (s.leaseRunEnd_entry h t) (TableEntry.kept_lease (Lease.kept_afterRun _ _ _ _))

theorem State.leaseTeardown_moved (s : State) (h : HostId) (t : TargetId) : s.Moved (s.leaseTeardown h t) :=
  (s.leaseTeardown_only h t).moved_entry (s.leaseTeardown_entry h t) (TableEntry.kept_lease (Lease.kept_tornDown _ _ _ _ _))

theorem State.withdraw_moved (s : State) (t : TargetId) (h : HostId) : s.Moved (s.withdraw t h) := by
  have left : s.Moved (s.updLease t (·.without h)) := State.updLease_moved (Lease.kept_without _ h)
  unfold State.withdraw
  dsimp only
  split
  · exact left.trans (State.grantCheck_moved _ t)
  · exact left

theorem State.leaseOffline_moved (s : State) (t : TargetId) : s.Moved (s.leaseOffline t) := by
  have emptied : s.Moved (s.updLease t fun l => { l with waiters := [] }) :=
    State.updLease_moved (Lease.kept_of_sublist (List.nil_sublist _) fun _ held => held)
  exact (emptied.trans (HostsOnly.foldl _ (fun s (w : Waiter) => s.notify_only w.host _ _ _) _ _).moved).trans
    (State.leaseEnd_moved _ t _)

theorem State.leaseExpire_moved (s : State) (t : TargetId) : s.Moved (s.leaseExpire t) := by
  unfold State.leaseExpire
  split
  · split
    · exact s.leaseEnd_moved t _
    · exact .refl s
  all_goals exact .refl s

theorem State.quarantine_moved {s : State} {t : TargetId} (defined : (s.entry t).state ≠ .undefined) : s.Moved (s.quarantine t) :=
  (s.quarantine_only t).moved_entry (s.quarantine_entry t) (TableEntry.kept_state defined (by simp))

theorem State.applyStatus_moved (s : State) (t : TargetId) (st : CStatus) (probe : Bool) (threshold : Nat) :
    s.Moved (s.applyStatus t st probe threshold) :=
  (s.applyStatus_only t st probe threshold).moved_entry (s.applyStatus_entry t st probe threshold)
    (TableEntry.kept_tallied _ st probe threshold)

theorem State.tellSubscribers_moved (s : State) (t : TargetId) (k : NoticeKind) (d : Byte) : s.Moved (s.tellSubscribers t k d) :=
  (s.tellSubscribers_only t k d).moved

theorem State.controlOnline_moved {s : State} {t : TargetId} (defined : (s.entry t).state ≠ .undefined) :
    s.Moved (s.controlOnline t) := by
  have up : s.Moved (s.updEntry t fun e => { e with state := .online, faults := 0 }) :=
    State.updEntry_moved ⟨rfl, iff_of_false (by simp) defined, fun _ => Nat.zero_le _, .refl _⟩
  unfold State.controlOnline
  dsimp only
  split
  · exact up.trans (State.tellSubscribers_moved _ t _ _)
  · exact up.trans (State.tellSubscribers_moved _ t _ _)
  all_goals exact up

theorem State.controlQuarantine_moved {s : State} {t : TargetId} (defined : (s.entry t).state ≠ .undefined) :
    s.Moved (s.controlQuarantine t) := by
  unfold State.controlQuarantine
  split
  · exact .refl s
  · exact State.quarantine_moved defined

theorem State.controlOffline_moved {s : State} {t : TargetId} (defined : (s.entry t).state ≠ .undefined) :
    s.Moved (s.controlOffline t) := by
  have down : s.Moved (s.updEntry t fun e => { e with state := .offline }) :=
    State.updEntry_moved (TableEntry.kept_state defined (by simp))
  unfold State.controlOffline
  split
  · exact .refl s
  · exact ((down.trans (State.endWorkAll_only _ _ _).moved).trans (State.leaseOffline_moved _ t)).trans
      (State.tellSubscribers_moved _ t _ _)

/-! ## Offers, runs and sweeps -/

theorem State.offer_entry (s : State) (r : TraceRecord) (v : TargetId) : (s.offer r).entry v = s.entry v :=
  congrArg (fun table : Vector TableEntry 48 => table[v]) (s.offer_table r)

theorem State.offer_moved (s : State) (r : TraceRecord) : s.Moved (s.offer r) :=
  (s.offer_only r).moved fun v => by rw [s.offer_entry]; exact .refl _

theorem State.endRun_moved (s : State) (x : LaneId) (r : Run) (after : Lane → Lane) (fault : State → State)
    (only : ∀ s : State, s.HostsOnly (fault s)) : s.Moved (s.endRun x r after fault) := by
  have left : s.Moved ((s.updLane x fun l => after { l with run := none }).updHost r.host fun c => c.endRun x r s.stamp) :=
    (s.updLane_moved x _).trans (State.updHost_moved (.runEnded _ x r _))
  have counted (u : State) (es : List SubEntry) : u.Moved (u.applyResults r es) :=
    Moved.foldl _ (fun u _ => u.applyStatus_moved _ _ _ _) _ u
  exact (((left.trans (counted _ _)).trans (only _).moved).trans (Moved.foldl _ (fun u t => u.leaseRunEnd_moved r.host t) _ _)).trans
    (Moved.foldl _ (fun u record => u.offer_moved record) _ _)

theorem State.endAttempt_moved (s : State) (x : LaneId) (r : Run) (results : List ElemResult) (after : Lane → Lane) :
    s.Moved (s.endAttempt x r results after) :=
  s.endRun_moved x _ after id id_only

theorem State.waitForLane_moved (s : State) (x : LaneId) (r : Run) (results : List ElemResult) (k : Nat) :
    s.Moved (s.waitForLane x r results k) := s.updLane_moved x _

theorem State.laneFault_moved (s : State) (x : LaneId) : s.Moved (s.laneFault x) := by
  unfold State.laneFault
  refine State.Moved.trans ?_ (State.tellAttached_only _ x _).moved
  split
  · exact s.endRun_moved x _ _ _ fun s => s.faultSearch_only x
  · exact (s.updLane_moved x _).trans (State.faultSearch_only _ x).moved

theorem State.answerRestart_moved (s : State) (x : LaneId) (k : Restart) (st : Status) : s.Moved (s.answerRestart x k st) := by
  unfold State.answerRestart
  split
  · exact s.updPort_moved _ _
  · exact .refl s

theorem State.recoveryEnd_moved (s : State) (x : LaneId) (r : Recovery) (ok : Bool) : s.Moved (s.recoveryEnd x r ok) := by
  have offered := (s.offer_moved (recoveryTraceRecord x r ok s.stamp)).trans
    (State.updLane_moved _ x fun l => { l with recovery := none })
  unfold State.recoveryEnd
  dsimp only
  refine offered.trans ?_
  split
  · exact ((State.updLane_moved _ x _).trans (State.tellAttached_only _ x _).moved).trans (State.answerRestart_moved _ x _ _)
  · exact ((State.updLane_moved _ x _).trans (State.faultSearch_only _ x).moved).trans (State.answerRestart_moved _ x _ _)
  · exact State.updLane_moved _ x _
  · exact State.laneFault_moved _ x

theorem State.recoveryTry_moved (s : State) (x : LaneId) (r : Recovery) (o : RecoveryObs) : s.Moved (s.recoveryTry x r o) := by
  rcases s.recoveryTry_cases x r o with ⟨_, ends⟩ | ⟨_, _, ends⟩ | ⟨_, _, goesOn⟩
  · rw [ends]; exact s.recoveryEnd_moved x _ _
  · rw [ends]; exact s.recoveryEnd_moved x _ _
  · rw [goesOn]; exact s.updLane_moved x _

theorem State.recoveryBegin_moved (s : State) (x : LaneId) (o : RecoveryObs) : s.Moved (s.recoveryBegin x o) :=
  (s.updLane_moved x _).trans (State.recoveryTry_moved _ x _ o)

theorem State.handOver_moved (s : State) (x : LaneId) (v : Visit) (st : CStatus) (out inn : Nat) :
    s.Moved (s.handOver x v st out inn) :=
  (s.applyStatus_moved _ _ _ _).trans (State.offer_moved _ _)

theorem State.sweepOn_moved (s : State) (x : LaneId) (w : Sweep) : s.Moved (s.sweepOn x w) := by
  rcases s.sweepOn_cases x w with ⟨t, _, visits⟩ | ⟨_, ends⟩
  · rw [visits]; exact s.updLane_moved x _
  · rw [ends]; exact (s.updLane_moved x _).trans (s.sweepEnd_only x w.found).moved

theorem State.afterNack_moved (s : State) (x : LaneId) (w : Sweep) (dataLow : Bool) : s.Moved (s.afterNack x w dataLow) := by
  unfold State.afterNack
  split
  · exact s.updLane_moved x _
  · exact s.sweepOn_moved x w

theorem State.transferLost_moved (s : State) (x : LaneId) (v : Visit) (out inn : Nat) : s.Moved (s.transferLost x v out inn) := by
  unfold State.transferLost State.sweepAbort
  exact (s.handOver_moved x v _ out inn).trans (State.updLane_moved _ x _)

theorem State.transferStretched_moved (s : State) (x : LaneId) (v : Visit) (out since : Nat) :
    s.Moved (s.transferStretched x v out since) := by
  unfold State.transferStretched
  split
  · exact (s.handOver_moved x v _ out 0).trans (State.updLane_moved _ x _)
  · exact .refl s

theorem State.alertByte_moved (s : State) (x : LaneId) (w : Sweep) (v : Visit) (b : Byte) : s.Moved (s.alertByte x w v b) := by
  have told : s.Moved (if b = 0 then s else s.tellSubscribers v.target .alert b) := by
    split
    · exact .refl s
    · exact s.tellSubscribers_moved _ _ _
  unfold State.alertByte
  dsimp only
  refine told.trans ((State.handOver_moved _ x v .ok 1 1).trans ?_)
  generalize State.handOver (if b = 0 then s else s.tellSubscribers v.target .alert b) x v .ok 1 1 = u
  split
  · exact State.updLane_moved _ x _
  · exact State.sweepOn_moved _ x _

/-! ## A choice -/

/-- One candidate for each host. -/
theorem State.candidates_nodup (s : State) (x : LaneId) : ((s.candidates x).map (·.1)).Nodup := by
  have hosts : ∀ hs : List HostId,
      ((hs.filterMap fun h => (s.candidate h x).map fun g => (h, g)).map (·.1)).Sublist hs := by
    intro hs
    induction hs with
    | nil => simp
    | cons h hs ih =>
      rw [List.filterMap_cons]
      cases s.candidate h x with
      | none => exact ih.cons h
      | some g => exact ih.cons_cons h
  have once : (roundRobin (s.lane x).lastGranted).Nodup := by
    generalize (s.lane x).lastGranted = last
    revert last
    decide
  exact once.sublist (hosts _)

/-- A candidate is one of its host's items. -/
theorem State.mem_candidates {s : State} {x : LaneId} {c : HostId × List SubEntry} (mem : c ∈ s.candidates x) :
    s.candidate c.1 x = some c.2 := by
  obtain ⟨h, _, hc⟩ := List.mem_filterMap.1 mem
  obtain ⟨g, candidate, rfl⟩ := Option.map_eq_some_iff.1 hc
  exact candidate

theorem State.isItem_of_candidate {s : State} {h : HostId} {x : LaneId} {g : List SubEntry} (candidate : s.candidate h x = some g) :
    isItem g = true := by
  have eligible : ∀ (older : List SubEntry) (gs : List (List SubEntry)), s.firstEligible h x older gs = some g → isItem g = true := by
    intro older gs
    induction gs generalizing older with
    | nil => intro no; cases no
    | cons k gs ih =>
      intro found
      rw [State.firstEligible] at found
      split at found
      · next fits =>
        cases found
        simp only [State.eligible, Bool.and_eq_true] at fits
        exact fits.1.1.1.2
      · exact ih _ found
  exact eligible _ _ candidate

theorem State.candidate_mem {s : State} {h : HostId} {x : LaneId} {g : List SubEntry} (candidate : s.candidate h x = some g) :
    g ∈ groups (s.host h).sq :=
  State.candidate_mem_groups candidate

/-- The bypass counts that a grant to host h raises. -/
theorem State.raised_host {cs : List (HostId × List SubEntry)} (once : (cs.map (·.1)).Nodup) (h : HostId) (s : State) (k : HostId) :
    (cs.foldl (fun s c => if c.1 = h then s else s.updHost c.1 fun d => d.raiseBypass c.2) s).host k =
      match cs.find? fun c => decide (c.1 = k) with
      | some c => if k = h then s.host k else (s.host k).raiseBypass c.2
      | none => s.host k := by
  induction cs generalizing s with
  | nil => rfl
  | cons c cs ih =>
    rw [List.map_cons, List.nodup_cons] at once
    rw [List.foldl_cons, ih once.2, List.find?_cons]
    by_cases own : c.1 = k
    · have none : cs.find? (fun d => decide (d.1 = k)) = none := by
        rw [List.find?_eq_none]
        intro d hd same
        exact once.1 (own ▸ of_decide_eq_true same ▸ List.mem_map_of_mem hd)
      rw [none, decide_eq_true own]
      dsimp only
      rw [own]
      split
      · rfl
      · exact State.updHost_host_self s k _
    · rw [decide_eq_false own]
      have same : (if c.1 = h then s else s.updHost c.1 fun d => d.raiseBypass c.2).host k = s.host k := by
        split
        · rfl
        · rw [State.updHost_host, if_neg (Ne.symm own)]
      simp only [same]

end Sys2Proof.Machine
end

section
/-! PROOFS. What one command can do to the hosts, the table and the loader: moves, or one of the six effects that are not moves. -/

namespace Sys2Proof.Machine

/-! ## The events of the lanes and of the Time Base -/

theorem State.grant_moved {s : State} {x : LaneId} {h : HostId} {g : List SubEntry} (candidate : s.candidate h x = some g) :
    s.Moved (s.grant x (s.candidates x) h g) := by
  have raised : s.Moved ((s.candidates x).foldl (fun s c => if c.1 = h then s else s.updHost c.1 fun d => d.raiseBypass c.2) s) := by
    have only : ∀ (cs : List (HostId × List SubEntry)) (u : State),
        (cs.foldl (fun s c => if c.1 = h then s else s.updHost c.1 fun d => d.raiseBypass c.2) u).table = u.table
          ∧ (cs.foldl (fun s c => if c.1 = h then s else s.updHost c.1 fun d => d.raiseBypass c.2) u).loader = u.loader
          ∧ (cs.foldl (fun s c => if c.1 = h then s else s.updHost c.1 fun d => d.raiseBypass c.2) u).pending = u.pending := by
      intro cs
      induction cs with
      | nil => exact fun u => ⟨rfl, rfl, rfl⟩
      | cons c cs ih =>
        intro u
        rw [List.foldl_cons]
        obtain ⟨table, loader, pending⟩ := ih (if c.1 = h then u else u.updHost c.1 fun d => d.raiseBypass c.2)
        rw [table, loader, pending]
        split <;> exact ⟨rfl, rfl, rfl⟩
    obtain ⟨table, loader, pending⟩ := only (s.candidates x) s
    refine ⟨fun k => ?_, fun v => ?_, loader, pending⟩
    · rw [State.raised_host (s.candidates_nodup x)]
      split
      · next c found =>
        have candidate := State.mem_candidates (List.mem_of_find?_eq_some found)
        have own : c.1 = k := by simpa using List.find?_some found
        rw [own] at candidate
        split
        · exact .refl
        · exact (HostMove.bypassed (State.candidate_mem candidate) (State.isItem_of_candidate candidate)).moves
      · exact .refl
    · rw [State.entry, State.entry, table]
      exact .refl _
  have own : ((s.candidates x).foldl (fun s c => if c.1 = h then s else s.updHost c.1 fun d => d.raiseBypass c.2) s).host h
      = s.host h := by
    rw [State.raised_host (s.candidates_nodup x)]
    split
    · rw [if_pos rfl]
    · rfl
  unfold State.grant
  refine (raised.trans (State.updHost_moved (.started x ?_ (State.isItem_of_candidate candidate)))).trans (State.updLane_moved _ x _)
  rw [own]
  exact State.candidate_mem candidate

theorem State.winner_mem {s : State} {cs : List (HostId × List SubEntry)} {c : HostId × List SubEntry} (wins : s.winner cs = some c) :
    c ∈ cs := by
  rw [State.winner, Option.or_eq_some_iff] at wins
  rcases wins with found | ⟨_, found⟩
  all_goals exact List.mem_of_find?_eq_some found

theorem State.choose_moved (s : State) (x : LaneId) : s.Moved (s.choose x) := by
  unfold State.choose
  split
  · dsimp only
    split
    · exact (s.updLane_moved x _).trans (State.sweepOn_moved _ x _)
    · split
      · next h g wins => exact State.grant_moved (State.mem_candidates (State.winner_mem wins))
      · exact .refl s
  · exact .refl s

theorem State.attemptSucceeds_moved (s : State) (x : LaneId) (reads : List (List Byte)) : s.Moved (s.attemptSucceeds x reads) := by
  unfold State.attemptSucceeds
  split
  · split
    · exact s.endAttempt_moved x _ _ _
    · exact .refl s
  · exact .refl s

theorem State.addressRefused_moved (s : State) (x : LaneId) (k : Nat) (done : List (List Byte)) (second dataLow : Bool) :
    s.Moved (s.addressRefused x k done second dataLow) := by
  unfold State.addressRefused
  split
  · split
    · exact .refl s
    · dsimp only
      split
      · split
        · exact s.waitForLane_moved x _ _ _
        · exact s.updLane_moved x _
      · exact s.endAttempt_moved x _ _ _
  · exact .refl s

theorem State.writeRefused_moved (s : State) (x : LaneId) (k : Nat) (done : List (List Byte)) (acked : Nat) (dataLow : Bool) :
    s.Moved (s.writeRefused x k done acked dataLow) := by
  unfold State.writeRefused
  split
  · split
    · exact s.endAttempt_moved x _ _ _
    · exact .refl s
  · exact .refl s

theorem State.runLosesLane_moved (s : State) (x : LaneId) (p : Progress) : s.Moved (s.runLosesLane x p) := by
  unfold State.runLosesLane
  split
  · split
    · dsimp only
      split
      · exact s.waitForLane_moved x _ _ _
      · exact s.endAttempt_moved x _ _ _
    · exact .refl s
  · exact .refl s

theorem State.runStretched_moved (s : State) (x : LaneId) (p : Progress) (since : Nat) : s.Moved (s.runStretched x p since) := by
  unfold State.runStretched
  split
  · split
    · exact s.endAttempt_moved x _ _ _
    · exact .refl s
  · exact .refl s

theorem State.losesLane_moved (s : State) (x : LaneId) (p : Progress) : s.Moved (s.losesLane x p) := by
  unfold State.losesLane
  split
  · split
    · exact s.transferLost_moved x _ _ _
    · exact .refl s
  · exact s.runLosesLane_moved x p

theorem State.stretches_moved (s : State) (x : LaneId) (p : Progress) (since : Nat) : s.Moved (s.stretches x p since) := by
  unfold State.stretches
  split
  · split
    · exact s.transferStretched_moved x _ _ since
    · exact .refl s
  · exact s.runStretched_moved x p since

theorem State.closes_moved (s : State) (x : LaneId) (clockHigh dataHigh : Bool) : s.Moved (s.closes x clockHigh dataHigh) := by
  unfold State.closes
  dsimp only
  split
  · split
    · split
      · exact s.sweepOn_moved x _
      · exact s.updLane_moved x _
    · exact s.updLane_moved x _
  · exact .refl s

theorem State.alertReadEnds_moved (s : State) (x : LaneId) (e : ReadEnd) : s.Moved (s.alertReadEnds x e) := by
  unfold State.alertReadEnds
  split
  · split
    · split
      · exact s.alertByte_moved x _ _ _
      · exact (s.handOver_moved x _ _ _ _).trans (State.afterNack_moved _ x _ _)
      · exact (s.handOver_moved x _ _ _ _).trans (State.afterNack_moved _ x _ _)
      · split
        · exact s.transferStretched_moved x _ _ _
        · exact .refl s
      · split
        · exact s.transferLost_moved x _ _ _
        · exact .refl s
    · exact .refl s
  · exact .refl s

theorem State.writeBackEnds_moved (s : State) (x : LaneId) (e : WriteEnd) : s.Moved (s.writeBackEnds x e) := by
  unfold State.writeBackEnds
  split
  · split
    · exact .refl s
    · split
      · exact (s.handOver_moved x _ _ _ _).trans (State.sweepOn_moved _ x _)
      · exact (s.handOver_moved x _ _ _ _).trans (State.afterNack_moved _ x _ _)
      · split
        · exact (s.handOver_moved x _ _ _ _).trans (State.afterNack_moved _ x _ _)
        · exact .refl s
      · split
        · exact s.transferStretched_moved x _ _ _
        · exact .refl s
      · split
        · exact s.transferLost_moved x _ _ _
        · exact .refl s
  · exact .refl s

theorem State.alertRises_moved (s : State) (x : LaneId) : s.Moved (s.alertRises x) := by
  unfold State.alertRises
  split
  · exact s.updLane_moved x _
  · exact .refl s

theorem State.lineLow_moved (s : State) (x : LaneId) (line : Line) : s.Moved (s.lineLow x line) := by
  unfold State.lineLow
  split
  · exact s.updLane_moved x _
  · exact .refl s

theorem State.leaveForeign_moved (s : State) (x : LaneId) : s.Moved (s.leaveForeign x) := by
  unfold State.leaveForeign
  split
  · exact s.updLane_moved x _
  · exact .refl s

theorem State.idleReached_moved (s : State) (x : LaneId) (since : Nat) : s.Moved (s.idleReached x since) := by
  unfold State.idleReached
  split
  · exact s.leaveForeign_moved x
  · exact .refl s

theorem State.stuckReached_moved (s : State) (x : LaneId) (line : Line) (since : Nat) (o : RecoveryObs) :
    s.Moved (s.stuckReached x line since o) := by
  unfold State.stuckReached
  split
  · exact (s.updLane_moved x _).trans (State.recoveryBegin_moved _ x o)
  · exact .refl s

theorem State.recoveryNext_moved (s : State) (x : LaneId) (o : RecoveryObs) : s.Moved (s.recoveryNext x o) := by
  unfold State.recoveryNext
  split
  · split
    · exact s.recoveryTry_moved x _ o
    · exact .refl s
  · exact .refl s

theorem State.windowExpiry_moved (s : State) (h : HostId) : s.Moved (s.windowExpiry h) := by
  unfold State.windowExpiry
  split
  · split
    · have both : (s.updHost h fun c => { c with chain := none }).endWork h isOpen (fun _ => .chainAbandoned) =
          s.updHost h fun c => HostCtx.endWork { c with chain := none } isOpen (fun _ => .chainAbandoned) s.stamp := by
        rw [State.endWork, State.updHost_updHost]
        rfl
      rw [both]
      exact State.updHost_moved (.abandoned _ _ _)
    · exact .refl s
  · exact .refl s

/-! ## A teardown -/

theorem State.discardRun_moved (s : State) (h : HostId) (x : LaneId) : s.Moved (s.discardRun h x) := by
  unfold State.discardRun
  split
  · split
    · exact (State.updHost_moved (.aside ⟨rfl, rfl, rfl, rfl, rfl, rfl, rfl, rfl⟩)).trans (State.updLane_moved _ x _)
    · exact .refl s
  · exact .refl s

theorem State.dropClaim_moved (s : State) (h : HostId) : s.Moved (s.dropClaim h) := by
  unfold State.dropClaim
  split
  · exact s.withTrace_moved _
  · exact .refl s

theorem State.teardown_moved (s : State) (h : HostId) : s.Moved (s.teardown h) := by
  have work := ((State.updHost_moved (s := s) (h := h) (.cleared _)).trans (State.discardRun_moved _ h .A)).trans
    (State.discardRun_moved _ h .B)
  have leases := work.trans (Moved.foldl _ (fun u t => u.leaseTeardown_moved h t) allTargets _)
  have engines := (leases.trans (State.dropClaim_moved _ h)).trans
    ((State.updLane_moved _ .A (Lane.abandonRestart h)).trans (State.updLane_moved _ .B (Lane.abandonRestart h)))
  exact engines.trans (State.updPort_moved _ h Port.cleared)

theorem State.hostResetFalls_moved (s : State) (h : HostId) : s.Moved (s.hostResetFalls h) := by
  unfold State.hostResetFalls
  split
  · exact ((State.updHost_moved (.aside ⟨rfl, rfl, rfl, rfl, rfl, rfl, rfl, rfl⟩)).trans (State.teardown_moved _ h)).trans
      (State.updPort_moved _ h _)
  · exact .refl s

theorem State.hostResetRises_moved (s : State) (h : HostId) : s.Moved (s.hostResetRises h) := by
  unfold State.hostResetRises
  split
  · exact .refl s
  · exact State.updHost_moved (.aside ⟨rfl, rfl, rfl, rfl, rfl, rfl, rfl, rfl⟩)

/-! ## Six effects that are not moves -/

/-- What a row of the image load does to the loader: it stays at work only while the load is in progress, which none begins, and the
entries read stay distinct. -/
structure Loader.Kept (l l' : Loader) : Prop where
  phase : (l.phase ≠ .none → l.state = .loading) → l'.phase ≠ .none → l'.state = .loading
  state : l'.state = .loading → l.state = .loading
  distinct : l.image.distinct → l'.image.distinct

/-- What one command can do. -/
inductive State.Effect (s : State) : State → Prop
  | moved {t : State} : s.Moved t → s.Effect t
  /-- SUBMIT (R33). -/
  | accepted {t : State} {h : HostId} {d : Descriptor} : submitRefusal h d s = none → (s.acceptDescriptor h d).Moved t → s.Effect t
  /-- TABLE_WRITE (R14 to R16). -/
  | written {t : State} {v : TargetId} {undefine : Bool} {c : Settings} : s.loading = false →
      (s.disruptive v undefine c && s.inUse v) = false → (!undefine && s.duplicateOf v c) = false →
      (s.updEntry v (·.written undefine c)).Moved t → s.Effect t
  /-- HOST_RIGHTS (R170). -/
  | rights {t : State} {g : HostId} {r : Rights} :
      ¬(r.admin = false ∧ (s.host g).rights.admin = true ∧ s.adminBeside g = false) →
      (s.updHost g fun c => { c with rights := r }).Moved t → s.Effect t
  /-- The image load goes on or fails (R198, R199, R201). -/
  | loader {t : State} {l : Loader} : s.loader.Kept l → (State.Moved { s with loader := l } t) → s.Effect t
  /-- A valid image is applied (R200). -/
  | applied {t : State} : s.loader.phase = .transfer → s.loadApplies.Moved t → s.Effect t
  /-- The release of a device reset (R193). -/
  | released {t : State} (p : ResetPins) : (State.afterRelease p s.pending).Moved t → s.Effect t

theorem State.Effect.none (s : State) : s.Effect s := .moved (.refl s)

/-- Moves after an effect belong to it. -/
theorem State.Effect.trans {s t u : State} (e : s.Effect t) (m : t.Moved u) : s.Effect u := by
  cases e with
  | moved a => exact .moved (a.trans m)
  | accepted none a => exact .accepted none (a.trans m)
  | written idle free apart a => exact .written idle free apart (a.trans m)
  | rights allowed a => exact .rights allowed (a.trans m)
  | loader kept a => exact .loader kept (a.trans m)
  | applied phase a => exact .applied phase (a.trans m)
  | released p a => exact .released p (a.trans m)

/-! ## The image load -/

theorem Image.distinct_blank : Image.distinct Image.blank := List.Pairwise.nil

/-- The load fails, or is given up for now: what has been read is discarded. -/
theorem Loader.kept_blank {l l' : Loader} (image : l'.image = Image.blank) (phase : l'.phase ≠ .none → l.phase ≠ .none)
    (state : l'.state = l.state ∨ l'.phase = .none ∧ l'.state ≠ .loading) : l.Kept l' := by
  refine ⟨fun before after => ?_, fun loading => ?_, fun _ => by rw [image]; exact Image.distinct_blank⟩
  · rcases state with same | ⟨none, _⟩
    · exact same.trans (before (phase after))
    · exact absurd none after
  · rcases state with same | ⟨_, other⟩
    · exact same.symm.trans loading
    · exact absurd loading other

theorem State.loadFails_effect {s u : State} (moved : s.Moved u) (r : LoadFailure) : s.Effect (u.loadFails r) := by
  refine .loader (l := (u.loadFails r).loader) ?_ ⟨moved.hosts, moved.entries, rfl, moved.pending⟩
  rw [← moved.loader]
  exact Loader.kept_blank rfl (fun no => absurd rfl no) (.inr ⟨rfl, by simp [State.loadFails]⟩)

theorem State.offerTransfer_moved (s : State) (st : CStatus) (out inn : Nat) : s.Moved (s.offerTransfer st out inn) := by
  unfold State.offerTransfer
  split
  · exact s.offer_moved _
  · exact .refl s

theorem State.beginTransfer_effect {s : State} (waits : s.loader.phase ≠ .none) : s.Effect s.beginTransfer :=
  .loader (l := s.beginTransfer.loader) (Loader.kept_blank rfl (fun _ => waits) (.inl rfl)) ⟨fun _ => .refl, fun _ => .refl _, rfl, rfl⟩

theorem Loader.phase_of_waits {l : Loader} (waits : l.waits = true) : l.phase ≠ .none := by
  simp only [Loader.waits, decide_eq_true_eq] at waits
  rcases waits with high | free
  · simp [high]
  · simp [free]

theorem State.imageStarts_effect (s : State) (since : Nat) : s.Effect (s.imageStarts since) := by
  unfold State.imageStarts
  split
  · next row => exact State.beginTransfer_effect (Loader.phase_of_waits row.1)
  · exact .none s

theorem State.imageStopSeen_effect (s : State) : s.Effect s.imageStopSeen := by
  unfold State.imageStopSeen
  split
  · next waits => exact State.beginTransfer_effect (by simp [waits])
  · exact .none s

/-- A field that passes leaves the entries read distinct (R198). -/
theorem Image.distinct_of_judge {im im' : Image} {f : ImageField} {bytes : List Byte} (passes : im.judge f bytes = .ok im')
    (distinct : im.distinct) : im'.distinct := by
  unfold Image.judge at passes
  dsimp only at passes
  split at passes
  · split at passes <;> cases passes
    exact distinct
  · split at passes <;> cases passes
    exact distinct
  · split at passes
    · split at passes <;> cases passes
      exact distinct
    · cases passes
  · split at passes <;> cases passes
    exact distinct
  · split at passes <;> cases passes
    exact distinct
  · split at passes
    · next c _ =>
      split at passes
      · cases passes
      · next apart =>
        cases passes
        refine List.pairwise_append.2 ⟨distinct, List.pairwise_singleton _ c, fun d hd e he same => apart ?_⟩
        rw [List.mem_singleton.1 he] at same
        exact List.any_eq_true.2 ⟨d, hd, decide_eq_true same⟩
    · cases passes
  · split at passes <;> cases passes
    exact distinct

theorem State.imageField_effect (s : State) (bytes : List Byte) : s.Effect (s.imageField bytes) := by
  unfold State.imageField
  split
  · split
    · split
      · next im passes =>
        exact .loader (l := { s.loader with image := im }) ⟨fun before after => before after, id,
          fun distinct => Image.distinct_of_judge passes distinct⟩ (.refl _)
      · exact State.loadFails_effect (s.offerTransfer_moved _ _ _) _
    · exact .none s
  · exact .none s

theorem State.imageNacked_effect (s : State) (w : ImageNack) : s.Effect (s.imageNacked w) := by
  unfold State.imageNacked
  split
  · exact State.loadFails_effect (s.offerTransfer_moved _ _ _) _
  · exact .none s

theorem State.imageLost_effect (s : State) (offsets : Nat) (field : List Byte) : s.Effect (s.imageLost offsets field) := by
  unfold State.imageLost
  split
  · next row =>
    dsimp only
    have offered := s.offerTransfer_moved .arbLost offsets (s.loader.image.received.length + field.length)
    split
    · exact State.loadFails_effect offered _
    · refine .loader (l := { s.loader with phase := .waitFree, image := Image.blank })
        (Loader.kept_blank rfl (fun _ => by simp [row.1]) (.inl rfl)) ⟨offered.hosts, offered.entries, ?_, offered.pending⟩
      rw [offered.loader]
  · exact .none s

theorem State.imageStretched_effect (s : State) (since offsets extra : Nat) : s.Effect (s.imageStretched since offsets extra) := by
  unfold State.imageStretched
  split
  · exact (State.loadFails_effect (s.offerTransfer_moved _ _ _) _).trans (State.updLane_moved _ .A _)
  · exact .none s

theorem State.imageStuck_effect (s : State) (since : Nat) : s.Effect (s.imageStuck since) := by
  unfold State.imageStuck
  split
  · exact (State.loadFails_effect (.refl s) _).trans (State.updLane_moved _ .A _)
  · exact .none s

theorem State.loadApplies_entry (s : State) (t : TargetId) : s.loadApplies.entry t =
    match s.loader.image.entries[t.val]? with
      | some c => imageDefined c (s.entry t)
      | none => s.entry t := by
  simp only [State.loadApplies, State.entry]
  exact Vector.getElem_ofFn t.isLt

theorem State.imageSucceeds_effect (s : State) : s.Effect s.imageSucceeds := by
  unfold State.imageSucceeds
  split
  · next row =>
    have offered := s.offerTransfer_moved .ok 2 s.loader.image.received.length
    have entry (v : TargetId) : (s.offerTransfer .ok 2 s.loader.image.received.length).entry v = s.entry v := by
      unfold State.offerTransfer
      split
      · exact s.offer_entry _ v
      · rfl
    refine .applied row.1 ⟨offered.hosts, fun v => ?_, ?_, offered.pending⟩
    · rw [State.loadApplies_entry, State.loadApplies_entry, offered.loader, entry]
      exact .refl _
    · rw [State.loadApplies, offered.loader]
      rfl
  · exact .none s

end Sys2Proof.Machine
end

section
/-! PROOFS. What each command frame and each row can do: `exec_effect`. -/

namespace Sys2Proof.Machine

/-! ## The commands of the owning blocks -/

theorem submitCommand_effect (h : HostId) (p : List Byte) (s : State) : s.Effect (submitCommand h p s).1 := by
  unfold submitCommand
  split
  · exact .none s
  · split
    · exact .none s
    · next none => exact .accepted none (.refl _)

theorem cancelCommand_effect (h : HostId) (p : List Byte) (s : State) : s.Effect (cancelCommand h p s).1 := by
  unfold cancelCommand
  split
  · exact .none s
  · split
    · exact .moved (s.endWork_only h _ _).moved
    · split <;> exact .none s

theorem fetchCompletionCommand_effect (h : HostId) (s : State) : s.Effect (fetchCompletionCommand h s).1 := by
  unfold fetchCompletionCommand
  split
  · exact .none s
  · next r rs queue =>
    dsimp only
    exact .moved (State.updHost_moved (.shown queue))

theorem retireCommand_effect (h : HostId) (p : List Byte) (s : State) : s.Effect (retireCommand h p s).1 := by
  unfold retireCommand
  split
  · exact .none s
  · split
    · next queue =>
      split
      · dsimp only
        exact .moved (State.updHost_moved (.retired queue))
      · exact .none s
    · exact .none s

theorem fetchNoticeCommand_effect (h : HostId) (s : State) : s.Effect (fetchNoticeCommand h s).1 := by
  unfold fetchNoticeCommand
  split
  · exact .none s
  · next n ns queue =>
    dsimp only
    exact .moved (State.updHost_moved (.noticeShown (by simp [queue])))

theorem ackNoticeCommand_effect (h : HostId) (s : State) : s.Effect (ackNoticeCommand h s).1 := by
  unfold ackNoticeCommand
  split
  · next n ns shown queue =>
    dsimp only
    exact .moved (State.updHost_moved (.noticeAcked shown queue))
  · exact .none s

/-- A host that gets the lease: it holds it already, or the lease is FREE and nobody waits. -/
theorem Lease.kept_held {l : Lease} {h : HostId} (may : l.state.holder = some h ∨ l.waiters = []) (expiry : Nat) :
    l.Kept { state := .held h, expiry := expiry, waiters := l.waiters } := by
  refine ⟨id, fun fit => ⟨fit.once, fun w hw held => ?_⟩⟩
  cases Option.some.inj held
  rcases may with own | empty
  · exact fit.others w hw own
  · dsimp only at hw
    rw [empty] at hw
    cases hw

/-- A host joins the wait list. -/
theorem Lease.kept_queued {l : Lease} {h : HostId} (room : l.waiters.length < Config.waitListCapacity)
    (notHolder : l.state.holder ≠ some h) (new : l.waits h = false) (d : Nat) :
    l.Kept { l with waiters := l.waiters ++ [{ host := h, duration := d }] } := by
  have absent : ∀ w ∈ l.waiters, w.host ≠ h := fun w hw same => by
    rw [(l.waits_iff h).2 ⟨w, hw, same⟩] at new
    cases new
  refine ⟨fun _ => by simpa using room, fun fit => ⟨?_, fun w hw => ?_⟩⟩
  · rw [List.map_append]
    refine List.nodup_append'.2 ⟨fit.once, List.nodup_singleton _, fun g hg own => ?_⟩
    obtain ⟨w, hw, rfl⟩ := List.mem_map.1 hg
    exact absent w hw (List.mem_singleton.1 own)
  · rcases List.mem_append.1 hw with old | here
    · exact fit.others w old
    · rwa [List.mem_singleton.1 here]

theorem leaseDecide_effect (h : HostId) (t : TargetId) (d : Nat) (noWait : Bool) (s : State) :
    s.Effect (leaseDecide h t d noWait s).1 := by
  unfold leaseDecide
  dsimp only
  split
  · next own =>
    have holder : (s.entry t).lease.state.holder = some h := by rw [(LeaseState.heldBy_iff _ h).1 own]; rfl
    dsimp only
    exact .moved (State.updLease_moved (Lease.kept_held (.inl holder) _))
  · split
    · exact .none s
    · next notHolder =>
      split
      · exact .none s
      · next new =>
        split
        · next free =>
          dsimp only
          exact .moved (State.updLease_moved (Lease.kept_held (.inr free.2.1) _))
        · split
          · exact .none s
          · split
            · exact .none s
            · next room =>
              dsimp only
              exact .moved (State.updLease_moved (Lease.kept_queued (Nat.not_le.1 room) notHolder (Bool.eq_false_iff.2 new) d))

theorem leaseCommand_effect (h : HostId) (p : List Byte) (s : State) : s.Effect (leaseCommand h p s).1 := by
  unfold leaseCommand
  split
  · exact .none s
  · split
    · exact .none s
    · split
      · exact .none s
      · split
        · exact .none s
        · exact leaseDecide_effect h _ _ _ s

theorem releaseCommand_effect (h : HostId) (p : List Byte) (s : State) : s.Effect (releaseCommand h p s).1 := by
  unfold releaseCommand
  split
  · exact .none s
  · dsimp only
    split
    · exact .moved (s.leaseEnd_moved _ _)
    · split
      · exact .none s
      · split
        · exact .moved (s.withdraw_moved _ h)
        · exact .none s

theorem leaseRevoke_effect (p : List Byte) (s : State) : s.Effect (leaseRevoke p s).1 := by
  unfold leaseRevoke
  split
  · exact .none s
  · split
    · exact .none s
    · exact .moved (s.leaseEnd_moved _ _)

theorem tableRead_effect (p : List Byte) (s : State) : s.Effect (tableRead p s).1 := by
  unfold tableRead
  split <;> exact .none s

theorem tableWrite_effect {p : List Byte} {s : State} (idle : s.loading = false) : s.Effect (tableWrite p s).1 := by
  unfold tableWrite
  split
  · exact .none s
  · split
    · exact .none s
    · next free =>
      split
      · exact .none s
      · next apart =>
        dsimp only [State.writeEntry]
        exact .written idle (Bool.eq_false_iff.2 free) (Bool.eq_false_iff.2 apart) (State.notifyAll_only _ _ _ _ _).moved

theorem targetControl_effect (p : List Byte) (s : State) : s.Effect (targetControl p s).1 := by
  unfold targetControl
  split
  · exact .none s
  · next t a _ =>
    split
    · exact .none s
    · next defined =>
      cases a with
      | online => exact .moved (State.controlOnline_moved defined)
      | offline => exact .moved (State.controlOffline_moved defined)
      | quarantine => exact .moved (State.controlQuarantine_moved defined)

theorem laneConfig_effect (p : List Byte) (s : State) : s.Effect (laneConfig p s).1 := by
  unfold laneConfig
  split
  · exact .none s
  · dsimp only
    exact .moved (s.updLane_moved _ _)

theorem laneStatus_effect (p : List Byte) (o : LaneObs) (s : State) : s.Effect (laneStatus p o s).1 := by
  unfold laneStatus
  split <;> exact .none s

theorem laneRestart_effect (h : HostId) (exch check : Byte) (p : List Byte) (o : RecoveryObs) (s : State) :
    s.Effect (laneRestart h exch check p o s).1 := by
  unfold laneRestart
  split
  · exact .none s
  · split
    · dsimp only [State.beginRestart]
      exact .moved (((s.updLane_moved _ _).trans (State.updPort_moved _ h _)).trans (State.recoveryBegin_moved _ _ o))
    · exact .none s

theorem hostStatus_effect (h : HostId) (p : List Byte) (s : State) : s.Effect (hostStatus h p s).1 := by
  unfold hostStatus
  split
  · exact .none s
  · split <;> exact .none s

theorem hostConfig_effect (h : HostId) (p : List Byte) (s : State) : s.Effect (hostConfig h p s).1 := by
  unfold hostConfig
  split
  · exact .none s
  · dsimp only
    exact .moved (State.updHost_moved (.aside ⟨rfl, rfl, rfl, rfl, rfl, rfl, rfl, rfl⟩))

theorem hostRights_effect (p : List Byte) (s : State) : s.Effect (hostRights p s).1 := by
  unfold hostRights
  split
  · exact .none s
  · split
    · exact .none s
    · next allowed =>
      dsimp only
      exact .rights allowed (.refl _)

theorem traceClaim_effect (h : HostId) (p : List Byte) (s : State) : s.Effect (traceClaim h p s).1 := by
  unfold traceClaim
  split
  · exact .none s
  · split
    · exact .none s
    · dsimp only
      split
      · dsimp only
        exact .moved (s.withTrace_moved _)
      · split
        · dsimp only
          exact .moved (s.withTrace_moved _)
        · exact .none s

theorem traceRelease_effect (h : HostId) (s : State) : s.Effect (traceRelease h s).1 := by
  unfold traceRelease
  split
  · exact .moved (s.dropClaim_moved h)
  · exact .none s

theorem traceControl_effect (h : HostId) (p : List Byte) (s : State) : s.Effect (traceControl h p s).1 := by
  unfold traceControl
  split
  · exact .none s
  · split
    · exact .none s
    · dsimp only
      exact .moved (s.withTrace_moved _)

theorem traceRead_effect (p : List Byte) (s : State) : s.Effect (traceRead p s).1 := by
  unfold traceRead
  split <;> exact .none s

/-! ## The Command Unit and the ports -/

/-- The Command Unit hands a command on outside the image load, but for DEVICE_INFO (R187). -/
theorem loading_of_commandUnit {h : HostId} {f : Frame} {s : State} {c : Cmd} (passes : commandUnit h f s = .ok c)
    (other : c ≠ .deviceInfo) : s.loading = false := by
  unfold commandUnit at passes
  split at passes
  · cases passes
  · next d _ =>
    split at passes
    · cases passes
    · next idle =>
      split at passes
      · cases passes
      · split at passes
        · cases passes
        · cases passes
          simpa [other] using idle

theorem runCommand_effect {h : HostId} {c : Cmd} {f : Frame} (o : LaneObs) {s : State} (idle : c ≠ .deviceInfo → s.loading = false) :
    s.Effect (runCommand h c f o s).1 := by
  cases c with
  | submit => exact submitCommand_effect h _ s
  | cancel => exact cancelCommand_effect h _ s
  | resume =>
    dsimp only [runCommand, answered, resumeCommand]
    exact .moved (State.updHost_moved (.aside ⟨rfl, rfl, rfl, rfl, rfl, rfl, rfl, rfl⟩))
  | fetchCompletion => exact fetchCompletionCommand_effect h s
  | retire => exact retireCommand_effect h _ s
  | fetchNotice => exact fetchNoticeCommand_effect h s
  | ackNotice => exact ackNoticeCommand_effect h s
  | lease => exact leaseCommand_effect h _ s
  | release => exact releaseCommand_effect h _ s
  | leaseRevoke => exact leaseRevoke_effect _ s
  | tableRead => exact tableRead_effect _ s
  | tableWrite => exact tableWrite_effect (idle (by simp))
  | targetControl => exact targetControl_effect _ s
  | laneConfig => exact laneConfig_effect _ s
  | laneStatus => exact laneStatus_effect _ o s
  | laneRestart => exact laneRestart_effect h _ _ _ _ s
  | hostStatus => exact hostStatus_effect h _ s
  | hostConfig => exact hostConfig_effect h _ s
  | hostRights => exact hostRights_effect _ s
  | detach => exact .moved (s.teardown_moved h)
  | traceClaim => exact traceClaim_effect h _ s
  | traceRelease => exact traceRelease_effect h s
  | traceControl => exact traceControl_effect h _ s
  | traceRead => exact traceRead_effect _ s
  | deviceInfo => exact .none s

theorem State.execute_effect (s : State) (h : HostId) (f : Frame) (o : LaneObs) : s.Effect (s.execute h f o) := by
  have ran {c : Cmd} {s' : State} {a : Option Reply} (passes : commandUnit h f s = .ok c) (run : runCommand h c f o s = (s', a)) :
      s.Effect s' := by
    have effect := runCommand_effect (h := h) (f := f) o (loading_of_commandUnit passes)
    rwa [run] at effect
  rcases s.execute_cases h f o with ⟨st, _, refused⟩ | ⟨c, s', r, passes, run, answered⟩ | ⟨c, s', passes, run, pending⟩
  · rw [refused]
    exact .moved (s.updPort_moved h _)
  · rw [answered]
    exact (ran passes run).trans (s'.updPort_moved h _)
  · rw [pending]
    exact ran passes run

theorem State.takeMalformed_moved (s : State) (h : HostId) (exch : Byte) (n : Nat) : s.Moved (s.takeMalformed h exch n) := by
  unfold State.takeMalformed State.sdoZeros
  exact (s.updPort_moved h _).trans (State.updPort_moved _ h _)

theorem State.takeFrame_effect (s : State) (h : HostId) (f : Frame) (o : LaneObs) : s.Effect (s.takeFrame h f o) := by
  rcases s.takeFrame_cases h f o with ⟨_, malformed⟩ | repeated | ⟨_, discarded⟩ | executed
  · rw [malformed]
    exact .moved (s.takeMalformed_moved h _ _)
  · rw [repeated]
    exact .moved (s.updPort_moved h _)
  · rw [discarded]
    exact .moved ((s.updPort_moved h _).trans (State.updPort_moved _ h _))
  · rw [executed]
    exact (s.execute_effect h f o).trans (State.updPort_moved _ h _)

/-! ## Every row -/

theorem State.onPort_effect {s : State} (h : HostId) (lasted : Nat) {f : State → State} (effect : s.Effect (f s)) :
    s.Effect (s.onPort h lasted f) := by
  rcases s.onPort_cases h lasted f with deaf | ⟨_, heard⟩
  · rw [deaf]
    exact .none s
  · rwa [heard]

theorem State.live_effect {s : State} {f : State → State} (effect : s.Effect (f s)) : s.Effect (s.live f) := by
  rcases s.live_cases f with stands | ⟨_, acts⟩
  · rw [stands]
    exact .none s
  · rwa [acts]

theorem State.sends_effect (s : State) (h : HostId) (c : Cmd) (x : Byte) (p : List Byte) (o : LaneObs) :
    s.Effect (s.sends h c x p o) :=
  State.onPort_effect h 0 (s.takeFrame_effect h _ o)

theorem State.resetFalls_effect (s : State) : s.Effect s.resetFalls := by
  refine .loader (l := { s.loader with phase := .none, image := Image.blank })
    ⟨fun _ no => absurd rfl no, id, fun _ => Image.distinct_blank⟩ ⟨fun h => ?_, fun _ => .refl _, rfl, rfl⟩
  rw [State.resetFalls_host]
  refine HostMove.moves (.aside ?_)
  constructor <;> rfl

theorem exec_effect (c : Instr) (s : State) : ∃ t, exec c s = .next t ∧ s.Effect t := by
  have provided {P : Prop} [Decidable P] {u : State} (effect : s.Effect u) : s.Effect (if P then u else s) := by
    split
    · exact effect
    · exact .none s
  cases c with
  | commandFrame v f o => exact ⟨_, rfl, State.onPort_effect _ _ (s.takeFrame_effect _ f o)⟩
  | malformedFrame v bytes => exact ⟨_, rfl, State.onPort_effect _ _ (provided (.moved (s.takeMalformed_moved _ _ _)))⟩
  | repeatFrame v f => exact ⟨_, rfl, State.onPort_effect _ _ (provided (.moved (s.updPort_moved _ _)))⟩
  | discardedFrame v bytes =>
    exact ⟨_, rfl, State.onPort_effect _ _ (provided (.moved ((s.updPort_moved _ _).trans (State.updPort_moved _ _ _))))⟩
  | responseRead v part => exact ⟨_, rfl, State.onPort_effect _ _ (.moved (s.updPort_moved _ _))⟩
  | ignoredTransfer v bytes => exact ⟨_, rfl, State.onPort_effect _ _ (provided (.moved (s.updPort_moved _ _)))⟩
  | unknownCommand v f => exact ⟨_, rfl, State.onPort_effect _ _ (provided (s.takeFrame_effect _ f _))⟩
  | deviceResetAssert => exact ⟨_, rfl, s.resetFalls_effect⟩
  | deviceResetRelease p => exact ⟨_, rfl, provided (.released p (.refl _))⟩
  | hostResetAssert h => exact ⟨_, rfl, State.live_effect (.moved (s.hostResetFalls_moved h))⟩
  | hostResetRelease h => exact ⟨_, rfl, State.live_effect (.moved (s.hostResetRises_moved h))⟩
  | alertInputFall x => exact ⟨_, rfl, State.live_effect (.moved (s.updLane_moved x _))⟩
  | alertInputRise x => exact ⟨_, rfl, State.live_effect (.moved (s.alertRises_moved x))⟩
  | foreignLineLow x line => exact ⟨_, rfl, State.live_effect (.moved (s.lineLow_moved x line))⟩
  | foreignStopSeen x => exact ⟨_, rfl, State.live_effect (.moved (s.leaveForeign_moved x))⟩
  | idleLimit x since => exact ⟨_, rfl, State.live_effect (.moved (s.idleReached_moved x since))⟩
  | stuckLimit x line since r => exact ⟨_, rfl, State.live_effect (.moved (s.stuckReached_moved x line since r))⟩
  | recoveryAttempt x r => exact ⟨_, rfl, State.live_effect (.moved (s.recoveryNext_moved x r))⟩
  | dispatcherChoice x => exact ⟨_, rfl, State.live_effect (.moved (s.choose_moved x))⟩
  | attemptSuccess x reads => exact ⟨_, rfl, State.live_effect (.moved (s.attemptSucceeds_moved x reads))⟩
  | addressNack x k done second low => exact ⟨_, rfl, State.live_effect (.moved (s.addressRefused_moved x k done second low))⟩
  | writeByteNack x k done acked low => exact ⟨_, rfl, State.live_effect (.moved (s.writeRefused_moved x k done acked low))⟩
  | arbitrationLoss x p => exact ⟨_, rfl, State.live_effect (.moved (s.losesLane_moved x p))⟩
  | stretchTimeout x p since => exact ⟨_, rfl, State.live_effect (.moved (s.stretches_moved x p since))⟩
  | closingStop x ch dh => exact ⟨_, rfl, State.live_effect (.moved (s.closes_moved x ch dh))⟩
  | leaseExpiry t => exact ⟨_, rfl, State.live_effect (.moved (s.leaseExpire_moved t))⟩
  | waitDeadline h tag => exact ⟨_, rfl, State.live_effect (.moved (s.endWork_only h _ _).moved)⟩
  | chainWindowExpiry h => exact ⟨_, rfl, State.live_effect (.moved (s.windowExpiry_moved h))⟩
  | alertReadEnd x e => exact ⟨_, rfl, State.live_effect (.moved (s.alertReadEnds_moved x e))⟩
  | writeBackEnd x e => exact ⟨_, rfl, State.live_effect (.moved (s.writeBackEnds_moved x e))⟩
  | imageLoadStart since => exact ⟨_, rfl, State.live_effect (s.imageStarts_effect since)⟩
  | imageFieldCheck bytes => exact ⟨_, rfl, State.live_effect (s.imageField_effect bytes)⟩
  | imageAddressNack w => exact ⟨_, rfl, State.live_effect (s.imageNacked_effect w)⟩
  | imageArbLost offsets field => exact ⟨_, rfl, State.live_effect (s.imageLost_effect offsets field)⟩
  | imageStretchTimeout since offsets extra => exact ⟨_, rfl, State.live_effect (s.imageStretched_effect since offsets extra)⟩
  | imageDataStuck since => exact ⟨_, rfl, State.live_effect (s.imageStuck_effect since)⟩
  | imageLoadSuccess => exact ⟨_, rfl, State.live_effect s.imageSucceeds_effect⟩
  | imageWaitStopSeen => exact ⟨_, rfl, State.live_effect s.imageStopSeen_effect⟩
  | _ => exact ⟨_, rfl, s.sends_effect _ _ _ _ _⟩

theorem State.Effect.pending {s t : State} (e : s.Effect t) : t.pending = s.pending := by
  cases e with
  | moved a => exact a.pending
  | accepted _ a => exact a.pending
  | written _ _ _ a => exact a.pending
  | rights _ a => exact a.pending
  | loader _ a => exact a.pending
  | applied _ a => exact a.pending
  | released _ a => exact a.pending

/-- Settles O2: every row answers a next state by `exec_effect`, and no effect touches the waiting commands. -/
theorem commandsCompleteAndTimePasses : Obligations.CommandsCompleteAndTimePasses := by
  refine ⟨fun c s => ?_, fun s empty released => ?_⟩
  · obtain ⟨t, next, effect⟩ := exec_effect c s
    exact ⟨t, next, effect.pending⟩
  · simp [step, empty, State.tick, released]

end Sys2Proof.Machine
end

section
/-! PROOFS. The laws that every step keeps: each is kept by moves and by the six effects that are not moves, and holds after a reset. -/

namespace Sys2Proof.Machine

/-- A law of the hosts, the table and the loader that every effect of a command keeps. -/
structure KeptLaw (P : State → Prop) : Prop where
  clock : ∀ s n q, P s → P { s with elapsed := n, pending := q }
  moved : ∀ s t, P s → s.Moved t → P t
  accepted : ∀ s h d, P s → submitRefusal h d s = none → P (s.acceptDescriptor h d)
  written : ∀ s v undefine c, P s → s.loading = false → (s.disruptive v undefine c && s.inUse v) = false →
    (!undefine && s.duplicateOf v c) = false → P (s.updEntry v (·.written undefine c))
  rights : ∀ s g (r : Rights), P s → ¬(r.admin = false ∧ (s.host g).rights.admin = true ∧ s.adminBeside g = false) →
    P (s.updHost g fun c => { c with rights := r })
  loader : ∀ s l, P s → s.loader.Kept l → P { s with loader := l }
  applied : ∀ s, P s → s.loader.phase = .transfer → P s.loadApplies
  released : ∀ p q, P (State.afterRelease p q)

theorem KeptLaw.effect {P : State → Prop} (law : KeptLaw P) {s t : State} (before : P s) (e : s.Effect t) : P t := by
  cases e with
  | moved a => exact law.moved s t before a
  | accepted none a => exact law.moved _ t (law.accepted s _ _ before none) a
  | written idle free apart a => exact law.moved _ t (law.written s _ _ _ before idle free apart) a
  | rights allowed a => exact law.moved _ t (law.rights s _ _ before allowed) a
  | loader kept a => exact law.moved _ t (law.loader s _ before kept) a
  | applied phase a => exact law.moved _ t (law.applied s before phase) a
  | released p a => exact law.moved _ t (law.released p _) a

theorem KeptLaw.step {P : State → Prop} (law : KeptLaw P) {s t : State} (before : P s) (next : step s = .next t) : P t := by
  unfold Machine.step at next
  split at next
  · next c rest _ =>
    obtain ⟨u, run, effect⟩ := exec_effect c { s with pending := rest }
    rw [run] at next
    cases next
    exact law.effect (law.clock s s.elapsed rest before) effect
  · cases next
    unfold State.tick
    split
    · exact before
    · exact law.clock s (s.elapsed + 1) s.pending before

/-! ## The parts of the state after each effect -/

theorem State.acceptDescriptor_host (s : State) (h : HostId) (d : Descriptor) (g : HostId) : (s.acceptDescriptor h d).host g =
    if g = h then
      (s.host h).joined (newEntry d (((s.host h).chain.map (·.count)).getD 0) (s.expiry d.waitLimit))
        (chainAfter d.mark (s.entry d.target).cfg.lane (s.expiry (s.host h).window) (s.host h).chain)
    else s.host g :=
  State.updHost_host s h g _

theorem State.loadApplies_host (s : State) (h : HostId) : s.loadApplies.host h = s.host h := rfl

theorem TableEntry.written_lease (e : TableEntry) (undefine : Bool) (c : Settings) : (e.written undefine c).lease = e.lease := by
  unfold TableEntry.written
  split
  · rfl
  · split <;> rfl

theorem TableEntry.written_cfg (e : TableEntry) (undefine : Bool) (c : Settings) : (e.written undefine c).cfg = c := by
  unfold TableEntry.written
  split
  · rfl
  · split <;> rfl

theorem TableEntry.written_state (e : TableEntry) (undefine : Bool) (c : Settings) :
    (e.written undefine c).state = .undefined ↔ undefine = true := by
  unfold TableEntry.written
  split
  · next yes => simp [yes]
  · next no =>
    split
    · simp [no]
    · next defined => exact iff_of_false defined no

theorem TableEntry.written_faults (e : TableEntry) (undefine : Bool) (c : Settings) : (e.written undefine c).faults ≤ c.threshold := by
  unfold TableEntry.written
  split
  · exact Nat.zero_le _
  · split
    · exact Nat.zero_le _
    · exact Nat.min_le_right _ _

/-! ## The credit law (R30) -/

theorem ite_some_eq_none_iff {α : Type} {P : Prop} [Decidable P] {a : α} {rest : Option α} :
    (if P then some a else rest) = none ↔ ¬P ∧ rest = none := by
  split <;> simp [*]

/-- What the checks of SUBMIT let pass, as far as the laws need it (R32). -/
structure submitPasses (s : State) (h : HostId) (d : Descriptor) : Prop where
  defined : (s.entry d.target).state ≠ .undefined
  fresh : (s.host h).tagOpen d.tag = false
  order : if d.mark = .middle ∨ d.mark = .last then
      ∃ ch, (s.host h).chain = some ch ∧ ch.lane = (s.entry d.target).cfg.lane
    else (s.host h).chain = none
  credit : (s.host h).credits ≠ 0

theorem submitPasses_of_none {s : State} {h : HostId} {d : Descriptor} (none : submitRefusal h d s = none) : submitPasses s h d := by
  rw [submitRefusal_eq] at none
  simp only [ite_some_eq_none_iff] at none
  obtain ⟨undefined, -, -, -, -, tagged, order, mismatch, -, -, -, broke, -⟩ := none
  refine ⟨undefined, ?_, ?_, broke⟩
  · rw [← HostCtx.tagOpen_iff, Bool.not_eq_true] at tagged
    exact tagged
  · rw [not_or, not_and, not_and_not_right] at order
    split
    · next goesOn =>
      obtain ⟨ch, chain⟩ := Option.ne_none_iff_exists'.1 (order.1 goesOn)
      refine ⟨ch, chain, by_contra fun other => mismatch ⟨goesOn, ch, chain, other⟩⟩
    · next fresh => exact order.2 fresh

theorem creditLaw_kept : KeptLaw State.creditLaw where
  clock _ _ _ before := before
  moved s t before a h := (HostMoves.fixed (fun _ _ m => m.creditSum) (a.hosts h)).trans (before h)
  accepted s h d before none g := by
    have free := (submitPasses_of_none none).credit
    rw [State.acceptDescriptor_host]
    split
    · have sum := before h
      simp only [HostCtx.joined, List.length_append, List.length_singleton]
      omega
    · exact before g
  written _ _ _ _ before _ _ _ := before
  rights s g r before _ h := by
    rw [State.updHost_host]
    split
    · exact before g
    · exact before h
  loader _ _ before _ := before
  applied _ before _ := before
  released p q h := by rw [State.afterRelease_host]; rfl

/-- Settles O54 by `creditLaw_kept`. -/
theorem creditLawIsKept : Obligations.CreditLawIsKept := fun _ _ => creditLaw_kept.step

/-! ## The bounds and the ADMIN right (R2, R50, R139, R170) -/

theorem adminLaw_kept : KeptLaw State.adminLaw where
  clock _ _ _ before := before
  moved s t := fun ⟨h, admin⟩ a => ⟨h, by rw [HostMoves.fixed (fun _ _ m => m.rights) (a.hosts h)]; exact admin⟩
  accepted s h d := fun ⟨g, admin⟩ _ => by
    refine ⟨g, ?_⟩
    rw [State.acceptDescriptor_host]
    split
    · next own => rwa [own] at admin
    · exact admin
  written _ _ _ _ before _ _ _ := before
  rights s g r := fun ⟨h, admin⟩ allowed => by
    cases given : r.admin
    · by_cases own : h = g
      · have beside : s.adminBeside g = true := by
          rw [own] at admin
          simpa [given, admin] using allowed
        obtain ⟨k, _, other⟩ := List.any_eq_true.1 beside
        simp only [Bool.and_eq_true, decide_eq_true_eq] at other
        exact ⟨k, by rw [State.updHost_host, if_neg other.1]; exact other.2⟩
      · exact ⟨h, by rw [State.updHost_host, if_neg own]; exact admin⟩
    · exact ⟨g, by rw [State.updHost_host_self]; exact given⟩
  loader _ _ before _ := before
  applied _ before _ := before
  released p q := ⟨p.adm, by rw [State.afterRelease_host]; simp [HostCtx.afterReset, Rights.afterReset]⟩

/-- The entry that an image entry defines has an empty wait list, and any other entry stays (R200). -/
theorem State.loadApplies_entry_cases (s : State) (t : TargetId) :
    (∃ c, s.loader.image.entries[t.val]? = some c ∧ s.loadApplies.entry t = imageDefined c (s.entry t))
      ∨ s.loader.image.entries[t.val]? = none ∧ s.loadApplies.entry t = s.entry t := by
  rw [State.loadApplies_entry]
  cases s.loader.image.entries[t.val]? with
  | none => exact .inr ⟨rfl, rfl⟩
  | some c => exact .inl ⟨c, rfl, rfl⟩

theorem boundsLaw_kept : KeptLaw State.boundsLaw where
  clock _ _ _ before := before
  moved s t := fun ⟨notices, entries⟩ a =>
    ⟨fun h => HostMoves.keep (fun _ _ m => m.nq_bound) (a.hosts h) (notices h),
      fun v => ⟨(a.entries v).lease.bound (entries v).1, (a.entries v).faults (entries v).2⟩⟩
  accepted s h d := fun ⟨notices, entries⟩ _ => by
    refine ⟨fun g => ?_, entries⟩
    rw [State.acceptDescriptor_host]
    split
    · exact notices h
    · exact notices g
  written s v undefine c := fun ⟨notices, entries⟩ _ _ _ => by
    refine ⟨notices, fun t => ?_⟩
    rw [State.updEntry_entry]
    split
    · rw [TableEntry.written_lease, TableEntry.written_cfg]
      exact ⟨(entries v).1, TableEntry.written_faults _ _ _⟩
    · exact entries t
  rights s g r := fun ⟨notices, entries⟩ _ => by
    refine ⟨fun h => ?_, entries⟩
    rw [State.updHost_host]
    split
    · exact notices g
    · exact notices h
  loader _ _ before _ := before
  applied s := fun ⟨notices, entries⟩ _ => by
    refine ⟨notices, fun t => ?_⟩
    rcases s.loadApplies_entry_cases t with ⟨c, _, defined⟩ | ⟨_, same⟩
    · rw [defined]
      exact ⟨Nat.zero_le _, Nat.zero_le _⟩
    · rw [same]
      exact entries t
  released p q := by
    refine ⟨fun h => ?_, fun t => ?_⟩
    · rw [State.afterRelease_host]
      exact Nat.zero_le _
    · rw [State.afterRelease_entry]
      exact ⟨Nat.zero_le _, Nat.zero_le _⟩

/-- Settles O58 by `adminLaw_kept` and `boundsLaw_kept`. -/
theorem adminAndBoundsAreKept : Obligations.AdminAndBoundsAreKept :=
  ⟨fun _ _ => adminLaw_kept.step, fun _ _ => boundsLaw_kept.step⟩

/-! ## The markers and the lists (R50, R135, R139, R144) -/

theorem State.recordsLaw_iff (s : State) :
    s.recordsLaw ↔ (∀ h, (s.host h).RecordsFit) ∧ ∀ t, (s.entry t).lease.WaitersFit := by
  simp only [HostCtx.recordsFit_iff, Lease.waitersFit_iff]
  rfl

theorem Lease.waitersFit_of_empty {l : Lease} (empty : l.waiters = []) : l.WaitersFit :=
  ⟨by simp [empty], fun w hw => by rw [empty] at hw; cases hw⟩

theorem recordsLaw_kept : KeptLaw State.recordsLaw where
  clock _ _ _ before := before
  moved s t before a := by
    rw [State.recordsLaw_iff] at before ⊢
    exact ⟨fun h => HostMoves.keep (fun _ _ m => m.recordsFit) (a.hosts h) (before.1 h),
      fun v => (a.entries v).lease.fits (before.2 v)⟩
  accepted s h d before _ := by
    rw [State.recordsLaw_iff] at before ⊢
    refine ⟨fun g => ?_, before.2⟩
    rw [State.acceptDescriptor_host]
    split
    · have fit := before.1 h
      exact ⟨fit.tag, fit.notice, fit.alerts⟩
    · exact before.1 g
  written s v undefine c before _ _ _ := by
    rw [State.recordsLaw_iff] at before ⊢
    refine ⟨before.1, fun t => ?_⟩
    rw [State.updEntry_entry]
    split
    · rw [TableEntry.written_lease]
      exact before.2 v
    · exact before.2 t
  rights s g r before _ := by
    rw [State.recordsLaw_iff] at before ⊢
    refine ⟨fun h => ?_, before.2⟩
    rw [State.updHost_host]
    split
    · have fit := before.1 g
      exact ⟨fit.tag, fit.notice, fit.alerts⟩
    · exact before.1 h
  loader _ _ before _ := before
  applied s before _ := by
    rw [State.recordsLaw_iff] at before ⊢
    refine ⟨before.1, fun t => ?_⟩
    rcases s.loadApplies_entry_cases t with ⟨c, _, defined⟩ | ⟨_, same⟩
    · rw [defined]
      exact Lease.waitersFit_of_empty rfl
    · rw [same]
      exact before.2 t
  released p q := by
    rw [State.recordsLaw_iff]
    refine ⟨fun h => ?_, fun t => ?_⟩
    · rw [State.afterRelease_host]
      exact ⟨fun _ no => (nomatch no), fun no => (nomatch no), List.nodup_nil⟩
    · rw [State.afterRelease_entry]
      exact Lease.waitersFit_of_empty rfl

/-- Settles O59 by `recordsLaw_kept`. -/
theorem recordsLawIsKept : Obligations.RecordsLawIsKept := fun _ _ => recordsLaw_kept.step

/-! ## The table (R1, R15, R198) -/

theorem State.duplicateOf_eq_false_iff (s : State) (v : TargetId) (c : Settings) : s.duplicateOf v c = false ↔
    ∀ u, u ≠ v → (s.entry u).state ≠ .undefined → ¬((s.entry u).cfg.lane = c.lane ∧ (s.entry u).cfg.address = c.address) := by
  simp only [State.duplicateOf, List.any_eq_false, decide_eq_true_eq, not_and]
  exact ⟨fun none u => none u (mem_allTargets u), fun none u _ => none u⟩

theorem uniqueAddresses_written {s : State} (unique : s.uniqueAddresses) {v : TargetId} {undefine : Bool} {c : Settings}
    (apart : (!undefine && s.duplicateOf v c) = false) : (s.updEntry v (·.written undefine c)).uniqueAddresses := by
  have clash {u : TargetId} (defined : ((s.entry v).written undefine c).state ≠ .undefined) (other : u ≠ v)
      (here : (s.entry u).state ≠ .undefined) (lane : (s.entry u).cfg.lane = c.lane) : (s.entry u).cfg.address ≠ c.address := by
    intro address
    rw [Ne, TableEntry.written_state] at defined
    have none : s.duplicateOf v c = false := by simpa [defined] using apart
    exact (s.duplicateOf_eq_false_iff v c).1 none u other here ⟨lane, address⟩
  intro t u definedT definedU lane address
  rw [State.updEntry_entry] at definedT definedU lane address
  rw [State.updEntry_entry] at lane address
  by_cases ht : t = v <;> by_cases hu : u = v
  · rw [ht, hu]
  · rw [if_pos ht, if_neg hu, TableEntry.written_cfg] at lane address
    rw [if_pos ht] at definedT
    rw [if_neg hu] at definedU
    exact absurd address.symm (clash definedT hu definedU lane.symm)
  · rw [if_neg ht, if_pos hu, TableEntry.written_cfg] at lane address
    rw [if_neg ht] at definedT
    rw [if_pos hu] at definedU
    exact absurd address (clash definedU ht definedT lane)
  · rw [if_neg ht, if_neg hu] at lane address
    rw [if_neg ht] at definedT
    rw [if_neg hu] at definedU
    exact unique t u definedT definedU lane address

theorem uniqueAddresses_moved {s t : State} (unique : s.uniqueAddresses) (a : s.Moved t) : t.uniqueAddresses := by
  intro v u definedV definedU lane address
  rw [(a.entries v).cfg, (a.entries u).cfg] at lane address
  exact unique v u (mt (a.entries v).defined.2 definedV) (mt (a.entries u).defined.2 definedU) lane address

/-- The load is in progress while a transfer is carried, so that the table is all UNDEFINED (R197). -/
theorem undefined_of_transfer {s : State} (load : s.loadLaw) (phase : s.loader.phase = .transfer) (t : TargetId) :
    (s.entry t).state = .undefined :=
  load.2.1 (load.1 (by simp [phase])) t

theorem uniqueAddresses_applied {s : State} (load : s.loadLaw) (phase : s.loader.phase = .transfer) :
    s.loadApplies.uniqueAddresses := by
  have place {t : TargetId} (defined : (s.loadApplies.entry t).state ≠ .undefined) :
      ∃ c, s.loader.image.entries[t.val]? = some c ∧ (s.loadApplies.entry t).cfg = c := by
    rcases s.loadApplies_entry_cases t with ⟨c, here, entry⟩ | ⟨_, same⟩
    · exact ⟨c, here, by rw [entry]; rfl⟩
    · rw [same] at defined
      exact absurd (undefined_of_transfer load phase t) defined
  intro t u definedT definedU lane address
  obtain ⟨c, hc, cfgT⟩ := place definedT
  obtain ⟨d, hd, cfgU⟩ := place definedU
  rw [cfgT, cfgU] at lane address
  obtain ⟨ltT, hc⟩ := List.getElem?_eq_some_iff.1 hc
  obtain ⟨ltU, hd⟩ := List.getElem?_eq_some_iff.1 hd
  have distinct := List.pairwise_iff_getElem.1 load.2.2
  rcases Nat.lt_trichotomy t.val u.val with before | same | after
  · exact absurd ⟨by rw [hc, hd, lane], by rw [hc, hd, address]⟩ (distinct _ _ ltT ltU before)
  · exact Fin.ext same
  · exact absurd ⟨by rw [hc, hd, lane], by rw [hc, hd, address]⟩ (distinct _ _ ltU ltT after)

theorem loadLaw_kept : KeptLaw State.loadLaw where
  clock _ _ _ before := before
  moved s t := fun ⟨phase, table, distinct⟩ a => by
    rw [State.loadLaw, a.loader]
    exact ⟨phase, fun loading v => (a.entries v).defined.2 (table loading v), distinct⟩
  accepted _ _ _ before _ := before
  written s v undefine c := fun ⟨phase, table, distinct⟩ idle _ _ => by
    refine ⟨phase, fun loading => absurd loading ?_, distinct⟩
    simpa [State.loading] using idle
  rights _ _ _ before _ := before
  loader s l := fun ⟨phase, table, distinct⟩ kept => ⟨kept.phase phase, fun loading => table (kept.state loading), kept.distinct distinct⟩
  applied s _ _ := ⟨fun no => absurd rfl no, fun no => (nomatch no), Image.distinct_blank⟩
  released p q := by
    refine ⟨?_, fun _ t => ?_, Image.distinct_blank⟩
    · cases imgen : p.imgen <;> simp [State.afterRelease, Loader.afterReset, imgen]
    · rw [State.afterRelease_entry]
      rfl

theorem tableLaw_kept : KeptLaw State.tableLaw where
  clock _ _ _ before := before
  moved s t before a := ⟨uniqueAddresses_moved before.1 a, loadLaw_kept.moved s t before.2 a⟩
  accepted _ _ _ before _ := before
  written s v undefine c before idle free apart :=
    ⟨uniqueAddresses_written before.1 apart, loadLaw_kept.written s v undefine c before.2 idle free apart⟩
  rights _ _ _ before _ := before
  loader s l before kept := ⟨before.1, loadLaw_kept.loader s l before.2 kept⟩
  applied s before phase := ⟨uniqueAddresses_applied before.2 phase, loadLaw_kept.applied s before.2 phase⟩
  released p q := by
    refine ⟨fun t u defined => absurd ?_ defined, loadLaw_kept.released p q⟩
    rw [State.afterRelease_entry]
    rfl

/-- Settles O56 by `tableLaw_kept`. -/
theorem tableLawIsKept : Obligations.TableLawIsKept := fun _ _ => tableLaw_kept.step

end Sys2Proof.Machine
end

section
/-! PROOFS. The law of the Submission Queues, their fit to the table, and the laws after a reset. -/

namespace Sys2Proof.Machine

/-! ## The form of the queues (R29, R34, R36, R83) -/

theorem SubEntry.continues_iff (e : SubEntry) : e.continues = true ↔ e.desc.mark = .middle ∨ e.desc.mark = .last :=
  decide_eq_true_iff

theorem isOpen_singleton (e : SubEntry) : isOpen [e] = decide (e.desc.mark = .first ∨ e.desc.mark = .middle) := rfl

/-- The entry of a descriptor that passes the checks joins the queue as R33 and R34 say. -/
theorem submitPasses.joins {s : State} {h : HostId} {d : Descriptor} (passes : submitPasses s h d) (before deadline window : Nat) :
    (s.host h).Joins (newEntry d before deadline) (chainAfter d.mark (s.entry d.target).cfg.lane window (s.host h).chain) := by
  refine ⟨rfl, passes.fresh, ?_, ?_⟩
  · have order := passes.order
    simp only [SubEntry.continues_iff, newEntry]
    split at order
    · obtain ⟨ch, chain, _⟩ := order
      rw [if_pos ‹_›, chain]
      rfl
    · rw [if_neg ‹_›]
      exact order
  · have order := passes.order
    rw [isOpen_singleton]
    cases mark : d.mark <;> simp_all [newEntry, chainAfter]
    obtain ⟨ch, chain, _⟩ := order
    simp [chain]

theorem queueFits_of_empty {c : HostCtx} (sq : c.sq = []) (cq : c.cq = []) (chain : c.chain = none) : c.queueFits = true :=
  c.queueFits_iff.2 ⟨[], none, by simp [sq], by simp, by simp, by simp, by simp, by simp [chain], by simp [sq, cq]⟩

theorem queueLaw_kept : KeptLaw State.queueLaw where
  clock _ _ _ before := before
  moved s t before a h := HostMoves.keep (fun _ _ m => m.queueFits) (a.hosts h) (before h)
  accepted s h d before none g := by
    rw [State.acceptDescriptor_host]
    split
    · obtain ⟨gs, o, div⟩ := (s.host h).queueFits_iff.1 (before h)
      obtain ⟨gs', o', div', _⟩ := div.accepted ((submitPasses_of_none none).joins _ _ _)
      exact (HostCtx.queueFits_iff _).2 ⟨gs', o', div'⟩
    · exact before g
  written _ _ _ _ before _ _ _ := before
  rights s g r before _ h := by
    rw [State.updHost_host]
    split
    · exact before g
    · exact before h
  loader _ _ before _ := before
  applied _ before _ := before
  released p q h := by
    rw [State.afterRelease_host]
    exact queueFits_of_empty rfl rfl rfl

/-! ## The fit of the queues to the table (R14, R34, R70, R82) -/

/-- What the fit needs of the table is whether the named entries are defined, and their lanes. -/
theorem HostCtx.workFits.congr {c : HostCtx} {table table' : TargetId → TableEntry} (fits : c.workFits table)
    (defined : ∀ e ∈ c.sq, (table e.desc.target).state ≠ .undefined → (table' e.desc.target).state ≠ .undefined)
    (lane : ∀ e ∈ c.sq, (table' e.desc.target).cfg.lane = (table e.desc.target).cfg.lane) : c.workFits table' := by
  obtain ⟨entries, parts⟩ := fits
  refine ⟨fun e he => ⟨defined e he (entries e he).1, (entries e he).2⟩, fun g hg => ⟨fun e he i hi => ?_, fun isO e he => ?_⟩⟩
  · rw [lane e (mem_of_mem_groups hg he), lane i (mem_of_mem_groups hg hi)]
    exact (parts g hg).1 e he i hi
  · rw [lane e (mem_of_mem_groups hg he)]
    exact (parts g hg).2 isO e he

theorem HostCtx.workFits_of_empty {c : HostCtx} (sq : c.sq = []) (table : TargetId → TableEntry) : c.workFits table := by
  unfold HostCtx.workFits
  simp [sq, groups]

theorem submitPasses.joinFits {s : State} {h : HostId} {d : Descriptor} (passes : submitPasses s h d) (before deadline window : Nat) :
    joinFits s.entry (s.host h) (newEntry d before deadline)
      (chainAfter d.mark (s.entry d.target).cfg.lane window (s.host h).chain) := by
  have order := passes.order
  refine ⟨passes.defined, rfl, fun goesOn => ?_, fun some => ?_⟩
  · rw [SubEntry.continues_iff] at goesOn
    rw [if_pos (by exact goesOn)] at order
    obtain ⟨ch, chain, lane⟩ := order
    rw [chain, Option.map_some, lane]
    rfl
  · cases mark : d.mark <;> simp_all [newEntry, chainAfter]

/-- Work that names an entry keeps TABLE_WRITE from undefining it and from moving it (R14). -/
theorem written_of_named {s : State} {v : TargetId} {undefine : Bool} {c : Settings}
    (free : (s.disruptive v undefine c && s.inUse v) = false) {h : HostId} {e : SubEntry} (he : e ∈ (s.host h).sq)
    (names : e.desc.target = v) (defined : (s.entry v).state ≠ .undefined) :
    undefine = false ∧ c.lane = (s.entry v).cfg.lane := by
  have named : s.workNames v = true :=
    List.any_eq_true.2 ⟨h, mem_allHosts h, List.any_eq_true.2 ⟨e, he, decide_eq_true names⟩⟩
  have quiet : s.disruptive v undefine c = false := by simpa [State.inUse, named] using free
  simp only [State.disruptive, defined, ne_eq, not_false_eq_true, decide_true, Bool.true_and, Bool.or_eq_false_iff,
    decide_eq_false_iff_not, not_not] at quiet
  exact ⟨quiet.1.1, quiet.1.2⟩

theorem workLaw_kept : KeptLaw State.workLaw where
  clock _ _ _ before := before
  moved s t before a := by
    obtain ⟨queues, load, work⟩ := before
    refine ⟨queueLaw_kept.moved s t queues a, loadLaw_kept.moved s t load a, fun h => ?_⟩
    have fits := HostMoves.keep (P := fun c => c.queueFits = true ∧ c.workFits s.entry) (fun _ _ m => m.workFits) (a.hosts h)
      ⟨queues h, work h⟩
    exact fits.2.congr (fun e _ => mt (a.entries _).defined.1) fun e _ => by rw [(a.entries _).cfg]
  accepted s h d before none := by
    obtain ⟨queues, load, work⟩ := before
    refine ⟨queueLaw_kept.accepted s h d queues none, load, fun g => ?_⟩
    change HostCtx.workFits _ s.entry
    rw [State.acceptDescriptor_host]
    split
    · have passes := submitPasses_of_none none
      obtain ⟨gs, o, div⟩ := (s.host h).queueFits_iff.1 (queues h)
      obtain ⟨gs', o', div', fit⟩ := div.accepted (passes.joins _ _ _)
      exact (div'.workFits_iff s.entry).2 (fit s.entry (passes.joinFits _ _ _) ((div.workFits_iff s.entry).1 (work h)))
    · exact work g
  written s v undefine c before idle free apart := by
    obtain ⟨queues, load, work⟩ := before
    refine ⟨queues, loadLaw_kept.written s v undefine c load idle free apart, fun h => ?_⟩
    refine HostCtx.workFits.congr (work h) (fun e he defined => ?_) fun e he => ?_
    · rw [State.updEntry_entry]
      split
      · next names =>
        rw [names] at defined
        rw [Ne, TableEntry.written_state, (written_of_named free he names defined).1]
        exact Bool.false_ne_true
      · exact defined
    · have defined := ((work h).1 e he).1
      rw [State.updEntry_entry]
      split
      · next names =>
        rw [names] at defined ⊢
        rw [TableEntry.written_cfg]
        exact (written_of_named free he names defined).2
      · rfl
  rights s g r before allowed := by
    obtain ⟨queues, load, work⟩ := before
    refine ⟨queueLaw_kept.rights s g r queues allowed, load, fun h => ?_⟩
    change HostCtx.workFits _ s.entry
    rw [State.updHost_host]
    split
    · exact work g
    · exact work h
  loader s l before kept := ⟨before.1, loadLaw_kept.loader s l before.2.1 kept, before.2.2⟩
  applied s before phase := by
    obtain ⟨queues, load, work⟩ := before
    refine ⟨queues, loadLaw_kept.applied s load phase, fun h => HostCtx.workFits_of_empty ?_ _⟩
    rw [State.loadApplies_host, List.eq_nil_iff_forall_not_mem]
    exact fun e he => ((work h).1 e he).1 (undefined_of_transfer load phase _)
  released p q := by
    refine ⟨queueLaw_kept.released p q, loadLaw_kept.released p q, fun h => HostCtx.workFits_of_empty ?_ _⟩
    rw [State.afterRelease_host]
    rfl

/-- Settles O55 by `queueLaw_kept` and `workLaw_kept`. -/
theorem queueLawIsKept : Obligations.QueueLawIsKept := ⟨fun _ _ => queueLaw_kept.step, fun _ _ => workLaw_kept.step⟩

/-! ## After a reset -/

theorem Lane.afterReset_fits {mode : LaneMode} (quiet : mode = .idle ∨ mode = .load) (p : LanePins) :
    (Lane.afterReset mode p).fits = true := by
  rcases quiet with rfl | rfl <;> rfl

theorem engineLaw_afterRelease (p : ResetPins) (q : List Instr) : (State.afterRelease p q).engineLaw := by
  refine ⟨fun _ => ⟨?_, Lane.afterReset_fits (.inl rfl) _, ?_, by simp [State.afterRelease, Lane.afterReset]⟩, fun _ h pending => ?_⟩
  · refine Lane.afterReset_fits ?_ _
    cases p.imgen <;> simp
  · cases imgen : p.imgen <;> simp [State.afterRelease, Lane.afterReset, Loader.afterReset, imgen]
  · rw [State.afterRelease_host] at pending
    cases pending

/-- The pins of `State.reset`. -/
def quietResetPins : ResetPins :=
  { adm := 0, imgen := false, imga := 0, hostHigh := 0b1111, laneA := quietPins, laneB := quietPins }

theorem State.reset_eq : State.reset = State.afterRelease quietResetPins [] := by
  have hosts : (Vector.ofFn fun h : HostId => HostCtx.afterReset (h == 0) true) =
      Vector.ofFn fun h : HostId => HostCtx.afterReset (decide (h = quietResetPins.adm)) (hostIn quietResetPins.hostHigh h) := by
    congr 1
    funext h
    revert h
    decide
  rw [State.reset, State.afterRelease, ← hosts]
  rfl

/-- Settles O60: the laws but the engine's by what each says of a release, and `State.reset` is a release with quiet pins. -/
theorem lawsHoldAfterReset : Obligations.LawsHoldAfterReset := by
  have all (p : ResetPins) (q : List Instr) : let t := State.afterRelease p q
      t.creditLaw ∧ t.queueLaw ∧ t.workLaw ∧ t.tableLaw ∧ t.engineLaw ∧ t.adminLaw ∧ t.boundsLaw ∧ t.recordsLaw :=
    ⟨creditLaw_kept.released p q, queueLaw_kept.released p q, workLaw_kept.released p q, tableLaw_kept.released p q,
      engineLaw_afterRelease p q, adminLaw_kept.released p q, boundsLaw_kept.released p q, recordsLaw_kept.released p q⟩
  refine ⟨all, ?_⟩
  rw [State.reset_eq]
  exact all quietResetPins []

end Sys2Proof.Machine
end

section
/-! PROOFS. The lane after each operation of its engine, and the law of the lanes and of the PENDING slots (R87, R88, R185). -/

namespace Sys2Proof.Machine

/-! ## What the state of a lane says of its fields (R88) -/

/-- The fields that fit the state of a lane, state by state. -/
def Lane.fieldsFit (l : Lane) : Prop :=
  match l.mode with
  | .idle | .faulted | .load => l.run = none ∧ l.sweep = none ∧ l.recovery = none ∧ l.restart = none ∧ l.closing = false
  | .foreign => l.sweep = none ∧ l.recovery = none ∧ l.restart = none ∧ l.closing = false
  | .running => l.sweep = none ∧ l.recovery = none ∧ l.restart = none ∧ l.closing = l.run.isNone
  | .sweep => l.run = none ∧ l.sweep.isSome = true ∧ l.recovery = none ∧ l.restart = none
  | .recovery => l.sweep = none ∧ l.recovery.isSome = true ∧ l.closing = false ∧ (l.restart.isSome = true → l.run = none)

theorem Lane.fits_iff (l : Lane) : l.fits = true ↔ l.fieldsFit := by
  unfold Lane.fits Lane.fieldsFit
  cases l.mode <;> cases l.run <;> cases l.sweep <;> cases l.recovery <;> cases l.restart <;> cases l.closing <;> simp

/-- A lane whose engine fields are those of another fits as it does. -/
theorem Lane.fits_congr {l k : Lane} (mode : k.mode = l.mode) (run : k.run = l.run) (sweep : k.sweep = l.sweep)
    (recovery : k.recovery = l.recovery) (restart : k.restart = l.restart) (closing : k.closing = l.closing) : k.fits = l.fits := by
  simp only [Lane.fits, mode, run, sweep, recovery, restart, closing]

/-! ## Steps that keep the law of the engines -/

/-- The engines keep their law from one state to the other: the lanes fit as before, and a PENDING slot was PENDING before and finds
the restart it waits for in its place. -/
structure State.EngineKept (s t : State) : Prop where
  reset : t.resetAsserted = s.resetAsserted
  phase : t.loader.phase = .none ↔ s.loader.phase = .none
  fits : ∀ x, (s.lane x).fits = true → (t.lane x).fits = true
  load : ∀ x, (s.lane x).fits = true → ((t.lane x).mode = .load ↔ (s.lane x).mode = .load)
  pending : ∀ h, (t.host h).port.slot = .pending → (s.host h).port.slot = .pending
    ∧ ∀ x k, (s.lane x).restart = some k → k.live = true → k.caller = h → (t.lane x).restart = some k

theorem State.EngineKept.refl (s : State) : s.EngineKept s :=
  ⟨rfl, Iff.rfl, fun _ => id, fun _ _ => Iff.rfl, fun _ pending => ⟨pending, fun _ _ restart _ _ => restart⟩⟩

theorem State.EngineKept.trans {s t u : State} (a : s.EngineKept t) (b : t.EngineKept u) : s.EngineKept u := by
  refine ⟨b.reset.trans a.reset, b.phase.trans a.phase, fun x => b.fits x ∘ a.fits x,
    fun x fits => (b.load x (a.fits x fits)).trans (a.load x fits), fun h pending => ?_⟩
  obtain ⟨middle, after⟩ := b.pending h pending
  obtain ⟨first, before⟩ := a.pending h middle
  exact ⟨first, fun x k restart live caller => after x k (before x k restart live caller) live caller⟩

theorem State.laneLaw.fits {s : State} (law : s.laneLaw) (released : s.resetAsserted = false) (x : LaneId) :
    (s.lane x).fits = true := by
  obtain ⟨fitsA, fitsB, _⟩ := law released
  cases x
  · exact fitsA
  · exact fitsB

theorem State.EngineKept.law {s t : State} (kept : s.EngineKept t) (law : s.engineLaw) : t.engineLaw := by
  refine ⟨fun released => ?_, fun released h pending => ?_⟩
  · rw [kept.reset] at released
    obtain ⟨fitsA, fitsB, loadA, loadB⟩ := law.1 released
    refine ⟨kept.fits .A fitsA, kept.fits .B fitsB, ?_, fun load => loadB ((kept.load .B fitsB).1 load)⟩
    rw [Ne, kept.phase]
    exact (kept.load .A fitsA).trans loadA
  · rw [kept.reset] at released
    obtain ⟨before, restarts⟩ := kept.pending h pending
    obtain ⟨x, k, restart, caller, live⟩ := law.2 released h before
    exact ⟨x, k, restarts x k restart live caller, caller, live⟩

/-- One lane changes, and no slot becomes PENDING. -/
theorem State.EngineKept.of_lane {s t : State} (x : LaneId) (reset : t.resetAsserted = s.resetAsserted)
    (loader : t.loader = s.loader) (others : ∀ y, y ≠ x → t.lane y = s.lane y)
    (fits : (s.lane x).fits = true → (t.lane x).fits = true ∧ ((t.lane x).mode = .load ↔ (s.lane x).mode = .load))
    (restart : (t.lane x).restart = (s.lane x).restart)
    (slots : ∀ h, (t.host h).port.slot = .pending → (s.host h).port.slot = .pending) : s.EngineKept t := by
  have at' {P : LaneId → Prop} (here : P x) (other : ∀ y, y ≠ x → P y) (y : LaneId) : P y := by
    by_cases own : y = x
    · rw [own]; exact here
    · exact other y own
  refine ⟨reset, by rw [loader], at' (fun f => (fits f).1) fun y own => ?_, at' (fun f => (fits f).2) fun y own => ?_,
    fun h pending => ⟨slots h pending, at' (fun k => ?_) fun y own k => ?_⟩⟩
  · rw [others y own]; exact id
  · rw [others y own]; exact fun _ => Iff.rfl
  · rw [restart]; exact fun some _ _ => some
  · rw [others y own]; exact fun some _ _ => some

theorem State.RecordsOnly.engine {s t : State} (only : s.RecordsOnly t) : s.EngineKept t :=
  .of_lane .A only.rest.resetAsserted only.rest.loader (fun y _ => only.rest.lane y)
    (fun f => by rw [only.rest.lane]; exact ⟨f, Iff.rfl⟩) (by rw [only.rest.lane]) fun h pending => by rwa [only.port] at pending
theorem State.TablesOnly.engine {s t : State} (only : s.TablesOnly t) : s.EngineKept t := only.records.engine
theorem State.HostsOnly.engine {s t : State} (only : s.HostsOnly t) : s.EngineKept t := only.records.engine

theorem State.updLane_engine {s : State} {x : LaneId} {f : Lane → Lane}
    (fits : (s.lane x).fits = true → (f (s.lane x)).fits = true ∧ ((f (s.lane x)).mode = .load ↔ (s.lane x).mode = .load))
    (restart : (f (s.lane x)).restart = (s.lane x).restart) : s.EngineKept (s.updLane x f) :=
  .of_lane x (by cases x <;> rfl) (by cases x <;> rfl) (fun y own => State.updLane_lane_ne s f own) (by simpa using fits)
    (by simpa using restart) fun h pending => by simpa using pending

theorem State.updHost_engine {s : State} {h : HostId} {f : HostCtx → HostCtx}
    (slot : (f (s.host h)).port.slot = .pending → (s.host h).port.slot = .pending) : s.EngineKept (s.updHost h f) :=
  .of_lane .A rfl rfl (fun _ _ => rfl) (fun fits => ⟨fits, Iff.rfl⟩) rfl fun g pending => by
    rw [State.updHost_host] at pending
    split at pending
    · next own => rw [own]; exact slot pending
    · exact pending

theorem State.updPort_engine {s : State} {h : HostId} {f : Port → Port}
    (slot : (f (s.host h).port).slot = .pending → (s.host h).port.slot = .pending) : s.EngineKept (s.updPort h f) :=
  State.updHost_engine slot

/-! ## The lane after the operations of its engine -/

/-- A lane that is carrying an attempt. -/
structure Lane.Carries (l : Lane) : Prop where
  mode : l.mode = .running
  run : l.run.isSome = true

theorem State.onWires_carries {s : State} {x : LaneId} {c : Run × List SubEntry} (wires : s.onWires x = some c) :
    (s.lane x).Carries := by
  unfold State.onWires at wires
  split at wires
  · next r run =>
    split at wires
    · next mode => exact ⟨mode, by rw [run]; rfl⟩
    · cases wires
  · cases wires

theorem State.elementAt_carries {s : State} {x : LaneId} {k : Nat} {done : List (List Byte)} {c : Run × List SubEntry × SubEntry}
    (here : s.elementAt x k done = some c) : (s.lane x).Carries := by
  unfold State.elementAt at here
  split at here
  · next wires => exact State.onWires_carries wires
  · cases here

theorem State.endRun_engine {s : State} {x : LaneId} {r : Run} {after : Lane → Lane} {fault : State → State}
    (only : ∀ s : State, s.HostsOnly (fault s))
    (fits : (s.lane x).fits = true → (after { s.lane x with run := none }).fits = true
      ∧ ((after { s.lane x with run := none }).mode = .load ↔ (s.lane x).mode = .load))
    (restart : (after { s.lane x with run := none }).restart = (s.lane x).restart) :
    s.EngineKept (s.endRun x r after fault) := by
  have rest := (s.endRun_only x r after fault only).rest
  refine .of_lane x (rest.resetAsserted.trans (by cases x <;> rfl)) (rest.loader.trans (by cases x <;> rfl))
    (fun y own => s.endRun_lane_ne own r after fault only) ?_ ?_ fun h pending => ?_
  · rw [s.endRun_lane x r after fault only]
    exact fits
  · rw [s.endRun_lane x r after fault only]
    exact restart
  · have port : ((s.endRun x r after fault).host h).port = (s.host h).port :=
      s.endRun_keeps x r after fault only _ (hostLaw_fixed (·.port) _ (by simp) (by simp))
        (fun c same => by
          rw [← same]
          cases discarded : r.discarded
          · rw [HostCtx.endRun_of_live discarded, HostCtx.appendRecords_port]
          · rw [HostCtx.endRun_of_discarded discarded]) h rfl
    rwa [port] at pending

/-- How the end of an attempt leaves its lane. -/
theorem State.endAttempt_engine {s : State} {x : LaneId} {r : Run} {results : List ElemResult} {after : Lane → Lane}
    (carries : (s.lane x).Carries)
    (ways : after = Lane.toIdle ∨ after = (fun l => l.toForeign s.elapsed) ∨ ∃ since, after = fun l => l.toClosing since) :
    s.EngineKept (s.endAttempt x r results after) := by
  refine State.endRun_engine id_only (fun fits => ?_) ?_
  · rw [Lane.fits_iff, Lane.fieldsFit, carries.mode] at fits
    obtain ⟨sweep, recovery, restart, _⟩ := fits
    rw [carries.mode]
    rcases ways with rfl | rfl | ⟨since, rfl⟩
    · simp [Lane.fits_iff, Lane.fieldsFit, Lane.toIdle, sweep, recovery, restart]
    · simp [Lane.fits_iff, Lane.fieldsFit, Lane.toForeign, sweep, recovery, restart]
    · simp [Lane.fits_iff, Lane.fieldsFit, Lane.toClosing, carries.mode, sweep, recovery, restart]
  · rcases ways with rfl | rfl | ⟨since, rfl⟩ <;> rfl

theorem State.waitForLane_engine {s : State} {x : LaneId} (carries : (s.lane x).Carries) (r : Run) (results : List ElemResult)
    (k : Nat) : s.EngineKept (s.waitForLane x r results k) := by
  refine State.updLane_engine (fun fits => ?_) rfl
  rw [Lane.fits_iff, Lane.fieldsFit, carries.mode] at fits
  obtain ⟨sweep, recovery, restart, _⟩ := fits
  rw [carries.mode]
  simp [Lane.fits_iff, Lane.fieldsFit, Lane.toForeign, sweep, recovery, restart]

theorem Lane.nextAttempt_fits {l : Lane} (run : l.run.isSome = true) (sweep : l.sweep = none) (recovery : l.recovery = none)
    (restart : l.restart = none) (now : Nat) : (l.nextAttempt now).fits = true := by
  obtain ⟨r, run⟩ := Option.isSome_iff_exists.1 run
  simp [Lane.fits_iff, Lane.fieldsFit, Lane.nextAttempt, Lane.onLines, run, sweep, recovery, restart]

theorem State.attemptSucceeds_engine (s : State) (x : LaneId) (reads : List (List Byte)) :
    s.EngineKept (s.attemptSucceeds x reads) := by
  unfold State.attemptSucceeds
  split
  · next wires =>
    split
    · exact State.endAttempt_engine (State.onWires_carries wires) (.inl rfl)
    · exact .refl s
  · exact .refl s

theorem State.addressRefused_engine (s : State) (x : LaneId) (k : Nat) (done : List (List Byte)) (second dataLow : Bool) :
    s.EngineKept (s.addressRefused x k done second dataLow) := by
  unfold State.addressRefused
  split
  · next here =>
    have carries := State.elementAt_carries here
    split
    · exact .refl s
    · dsimp only
      split
      · split
        · exact State.waitForLane_engine carries _ _ _
        · refine State.updLane_engine (fun fits => ?_) rfl
          rw [Lane.fits_iff, Lane.fieldsFit, carries.mode] at fits
          obtain ⟨sweep, recovery, restart, _⟩ := fits
          exact ⟨Lane.nextAttempt_fits carries.run sweep recovery restart _, by rw [carries.mode]; simp [Lane.nextAttempt]⟩
      · refine State.endAttempt_engine carries ?_
        cases dataLow
        · exact .inl rfl
        · exact .inr (.inl rfl)
  · exact .refl s

theorem State.writeRefused_engine (s : State) (x : LaneId) (k : Nat) (done : List (List Byte)) (acked : Nat) (dataLow : Bool) :
    s.EngineKept (s.writeRefused x k done acked dataLow) := by
  unfold State.writeRefused
  split
  · next here =>
    split
    · refine State.endAttempt_engine (State.elementAt_carries here) ?_
      cases dataLow
      · exact .inl rfl
      · exact .inr (.inl rfl)
    · exact .refl s
  · exact .refl s

theorem State.runLosesLane_engine (s : State) (x : LaneId) (p : Progress) : s.EngineKept (s.runLosesLane x p) := by
  unfold State.runLosesLane
  split
  · next here =>
    split
    · dsimp only
      split
      · exact State.waitForLane_engine (State.elementAt_carries here) _ _ _
      · exact State.endAttempt_engine (State.elementAt_carries here) (.inr (.inl rfl))
    · exact .refl s
  · exact .refl s

theorem State.runStretched_engine (s : State) (x : LaneId) (p : Progress) (since : Nat) : s.EngineKept (s.runStretched x p since) := by
  unfold State.runStretched
  split
  · next here =>
    split
    · exact State.endAttempt_engine (State.elementAt_carries here) (.inr (.inr ⟨since, rfl⟩))
    · exact .refl s
  · exact .refl s

/-! ## Sweeps -/

/-- A lane whose engine keeps to its sweep, or leaves it for IDLE or FOREIGN. -/
theorem State.updLane_sweep_engine {s : State} {x : LaneId} {f : Lane → Lane} (mode : (s.lane x).mode = .sweep)
    (run : (f (s.lane x)).run = (s.lane x).run) (recovery : (f (s.lane x)).recovery = (s.lane x).recovery)
    (restart : (f (s.lane x)).restart = (s.lane x).restart)
    (ways : (f (s.lane x)).mode = .sweep ∧ (f (s.lane x)).sweep.isSome = true
      ∨ ((f (s.lane x)).mode = .idle ∨ (f (s.lane x)).mode = .foreign) ∧ (f (s.lane x)).sweep = none
        ∧ (f (s.lane x)).closing = false) : s.EngineKept (s.updLane x f) := by
  refine State.updLane_engine (fun fits => ?_) restart
  rw [Lane.fits_iff, Lane.fieldsFit, mode] at fits
  obtain ⟨noRun, _, noRecovery, noRestart⟩ := fits
  rw [noRun] at run
  rw [noRecovery] at recovery
  rw [noRestart] at restart
  rcases ways with ⟨stays, sweep⟩ | ⟨idle | foreign, sweep, closing⟩
  · simp [Lane.fits_iff, Lane.fieldsFit, stays, sweep, run, recovery, restart, mode]
  · simp [Lane.fits_iff, Lane.fieldsFit, idle, sweep, run, recovery, restart, mode, closing]
  · simp [Lane.fits_iff, Lane.fieldsFit, foreign, sweep, recovery, restart, mode, closing]

theorem State.sweepOn_engine {s : State} {x : LaneId} (mode : (s.lane x).mode = .sweep) (w : Sweep) : s.EngineKept (s.sweepOn x w) := by
  rcases s.sweepOn_cases x w with ⟨t, _, visits⟩ | ⟨_, ends⟩
  · rw [visits]
    exact State.updLane_sweep_engine mode rfl rfl rfl (.inl ⟨mode, rfl⟩)
  · rw [ends]
    refine State.EngineKept.trans ?_ (s.sweepEnd_only x w.found).engine
    exact State.updLane_sweep_engine mode rfl rfl rfl (.inr ⟨.inl rfl, rfl, rfl⟩)

theorem State.sweepAbort_engine {s : State} {x : LaneId} (mode : (s.lane x).mode = .sweep) : s.EngineKept (s.sweepAbort x) :=
  State.updLane_sweep_engine mode rfl rfl rfl (.inr ⟨.inr rfl, rfl, rfl⟩)

theorem State.visitOn_sweep {s : State} {x : LaneId} {v : Sweep × Visit} (visit : s.visitOn x = some v) :
    (s.lane x).mode = .sweep ∧ (s.lane x).closing = false ∧ (s.lane x).sweep = some v.1 ∧ v.1.visit = some v.2 := by
  unfold State.visitOn at visit
  split at visit
  · next here =>
    split at visit
    · next w sweep =>
      obtain ⟨u, visits, rfl⟩ := Option.map_eq_some_iff.1 visit
      exact ⟨here.1, here.2, sweep, visits⟩
    · cases visit
  · cases visit

theorem State.handOver_mode (s : State) (x : LaneId) (v : Visit) (st : CStatus) (out inn : Nat) (y : LaneId) :
    (s.handOver x v st out inn).lane y = s.lane y := (s.handOver_only x v st out inn).rest.lane y

theorem State.afterNack_engine {s : State} {x : LaneId} (mode : (s.lane x).mode = .sweep) (w : Sweep) (dataLow : Bool) :
    s.EngineKept (s.afterNack x w dataLow) := by
  unfold State.afterNack
  split
  · exact State.sweepAbort_engine mode
  · exact State.sweepOn_engine mode w

theorem State.transferLost_engine {s : State} {x : LaneId} (mode : (s.lane x).mode = .sweep) (v : Visit) (out inn : Nat) :
    s.EngineKept (s.transferLost x v out inn) :=
  (s.handOver_only x v _ out inn).engine.trans (State.sweepAbort_engine (by rw [State.handOver_mode]; exact mode))

theorem State.transferStretched_engine {s : State} {x : LaneId} (mode : (s.lane x).mode = .sweep) (v : Visit) (out since : Nat) :
    s.EngineKept (s.transferStretched x v out since) := by
  unfold State.transferStretched
  split
  · refine (s.handOver_only x v _ out 0).engine.trans (State.updLane_engine (fun fits => ?_) rfl)
    rw [State.handOver_mode] at fits ⊢
    rw [Lane.fits_iff, Lane.fieldsFit, mode] at fits
    simpa [Lane.fits_iff, Lane.fieldsFit, Lane.toClosing, mode] using fits
  · exact .refl s

theorem State.alertByte_engine {s : State} {x : LaneId} (mode : (s.lane x).mode = .sweep) (w : Sweep) (v : Visit) (b : Byte) :
    s.EngineKept (s.alertByte x w v b) := by
  have told : s.HostsOnly (if b = 0 then s else s.tellSubscribers v.target .alert b) := by
    split
    · exact .refl s
    · exact s.tellSubscribers_only _ _ _
  have handed := told.records.trans (State.handOver_only _ x v .ok 1 1)
  unfold State.alertByte
  dsimp only
  refine handed.engine.trans ?_
  have mode' := congrArg Lane.mode (handed.rest.lane x)
  rw [mode] at mode'
  generalize State.handOver (if b = 0 then s else s.tellSubscribers v.target .alert b) x v .ok 1 1 = u at mode'
  split
  · exact State.updLane_sweep_engine mode' rfl rfl rfl (.inl ⟨mode', rfl⟩)
  · exact State.sweepOn_engine mode' _

theorem State.handed_engine {s : State} {x : LaneId} (mode : (s.lane x).mode = .sweep) (v : Visit) (st : CStatus) (out inn : Nat)
    {f : State → State} (after : ∀ u : State, (u.lane x).mode = .sweep → u.EngineKept (f u)) :
    s.EngineKept (f (s.handOver x v st out inn)) :=
  (s.handOver_only x v st out inn).engine.trans (after _ (by rw [State.handOver_mode]; exact mode))

theorem State.alertReadEnds_engine (s : State) (x : LaneId) (e : ReadEnd) : s.EngineKept (s.alertReadEnds x e) := by
  unfold State.alertReadEnds
  split
  · next visit =>
    have mode := (State.visitOn_sweep visit).1
    split
    · split
      · exact State.alertByte_engine mode _ _ _
      · exact State.handed_engine mode _ _ _ _ fun u here => State.afterNack_engine here _ _
      · exact State.handed_engine mode _ _ _ _ fun u here => State.afterNack_engine here _ _
      · split
        · exact State.transferStretched_engine mode _ _ _
        · exact .refl s
      · split
        · exact State.transferLost_engine mode _ _ _
        · exact .refl s
    · exact .refl s
  · exact .refl s

theorem State.writeBackEnds_engine (s : State) (x : LaneId) (e : WriteEnd) : s.EngineKept (s.writeBackEnds x e) := by
  unfold State.writeBackEnds
  split
  · next visit =>
    have mode := (State.visitOn_sweep visit).1
    split
    · exact .refl s
    · split
      · exact State.handed_engine mode _ _ _ _ fun u here => State.sweepOn_engine here _
      · exact State.handed_engine mode _ _ _ _ fun u here => State.afterNack_engine here _ _
      · split
        · exact State.handed_engine mode _ _ _ _ fun u here => State.afterNack_engine here _ _
        · exact .refl s
      · split
        · exact State.transferStretched_engine mode _ _ _
        · exact .refl s
      · split
        · exact State.transferLost_engine mode _ _ _
        · exact .refl s
  · exact .refl s

theorem State.losesLane_engine (s : State) (x : LaneId) (p : Progress) : s.EngineKept (s.losesLane x p) := by
  unfold State.losesLane
  split
  · next visit =>
    split
    · exact State.transferLost_engine (State.visitOn_sweep visit).1 _ _ _
    · exact .refl s
  · exact s.runLosesLane_engine x p

theorem State.stretches_engine (s : State) (x : LaneId) (p : Progress) (since : Nat) : s.EngineKept (s.stretches x p since) := by
  unfold State.stretches
  split
  · next visit =>
    split
    · exact State.transferStretched_engine (State.visitOn_sweep visit).1 _ _ since
    · exact .refl s
  · exact s.runStretched_engine x p since

theorem State.closes_engine (s : State) (x : LaneId) (clockHigh dataHigh : Bool) : s.EngineKept (s.closes x clockHigh dataHigh) := by
  unfold State.closes
  dsimp only
  split
  · next closing =>
    split
    · split
      · next mode _ => exact State.sweepOn_engine mode _
      · next other =>
        refine State.updLane_engine (fun fits => ?_) rfl
        rw [Lane.fits_iff, Lane.fieldsFit] at fits
        cases mode : (s.lane x).mode <;> rw [mode] at fits <;> simp only [closing] at fits
        case running =>
          obtain ⟨sweep, recovery, restart, run⟩ := fits
          simp [Lane.fits_iff, Lane.fieldsFit, Lane.toIdle, sweep, recovery, restart, Option.isNone_iff_eq_none.1 run.symm]
        case sweep =>
          obtain ⟨w, sweep⟩ := Option.isSome_iff_exists.1 fits.2.1
          exact absurd sweep (other w mode)
        all_goals simp at fits
    · exact State.updLane_engine (fun fits => ⟨fits, Iff.rfl⟩) rfl
  · exact .refl s

end Sys2Proof.Machine
end

section
/-! PROOFS. Recovery sequences, choices, teardowns and the image load keep the law of the engines (R88, R185). -/

namespace Sys2Proof.Machine

/-! ## The lane after a recovery sequence (R105, R109, R110, R114) -/

/-- A lane after its recovery sequence: the end of a restart, or the way out of RECOVERY that the stuck limit took. -/
def Lane.recovered (l : Lane) (ok : Bool) (now : Nat) : Lane :=
  match l.restart, ok with
  | some _, true => { l.toIdle with recovery := none, restart := none, masked := l.masked && l.alertLow }
  | some _, false => { l.toFaulted with restart := none }
  | none, true => if l.run.isSome then { l.nextAttempt now with recovery := none } else { l.toIdle with recovery := none }
  | none, false => { l.toFaulted with run := none }

theorem State.laneFault_lane (s : State) (x y : LaneId) :
    (s.laneFault x).lane y = if y = x then { (s.lane x).toFaulted with run := none } else s.lane y := by
  unfold State.laneFault
  rw [(State.tellAttached_only _ x _).rest.lane]
  cases run : (s.lane x).run with
  | some r =>
    dsimp only
    by_cases own : y = x
    · rw [if_pos own, own, State.endRun_lane _ _ _ _ _ fun s => s.faultSearch_only x]
      rfl
    · rw [if_neg own, State.endRun_lane_ne _ own _ _ _ fun s => s.faultSearch_only x]
  | none =>
    dsimp only
    rw [(State.faultSearch_only _ x).rest.lane]
    by_cases own : y = x
    · rw [if_pos own, own, State.updLane_lane_self]
      unfold Lane.toFaulted
      rw [← run]
    · rw [if_neg own, State.updLane_lane_ne _ _ own]

theorem State.answerRestart_lane (s : State) (x : LaneId) (k : Restart) (st : Status) (y : LaneId) :
    (s.answerRestart x k st).lane y = s.lane y := by
  unfold State.answerRestart
  split
  · exact State.updPort_lane s _ _ y
  · rfl

theorem State.recoveryEnd_lane (s : State) (x : LaneId) (r : Recovery) (ok : Bool) (y : LaneId) :
    (s.recoveryEnd x r ok).lane y = if y = x then (s.lane x).recovered ok s.elapsed else s.lane y := by
  obtain ⟨u, only, ends⟩ := s.recoveryEnd_cases x r ok
  have here : u.lane x = { s.lane x with recovery := none } := by rw [only.rest.lane, State.updLane_lane_self]
  have there (own : ¬y = x) : u.lane y = s.lane y := by rw [only.rest.lane, State.updLane_lane_ne _ _ own]
  rw [ends]
  unfold Lane.recovered
  by_cases own : y = x
  · subst own
    rw [if_pos rfl]
    cases restart : (s.lane y).restart <;> cases ok <;> dsimp only
    · rw [State.laneFault_lane, if_pos rfl, here]
      rfl
    · rw [State.updLane_lane_self, here]
      cases (s.lane y).run <;> rfl
    · rw [State.restartFails, State.answerRestart_lane, (State.faultSearch_only _ y).rest.lane, State.updLane_lane_self, here]
      rfl
    · rw [State.restartSucceeds, State.answerRestart_lane, (State.tellAttached_only _ y _).rest.lane, State.updLane_lane_self, here]
      rfl
  · rw [if_neg own, ← there own]
    cases (s.lane x).restart <;> cases ok <;> dsimp only
    · rw [State.laneFault_lane, if_neg own]
    · rw [State.updLane_lane_ne _ _ own]
    · rw [State.restartFails, State.answerRestart_lane, (State.faultSearch_only _ x).rest.lane, State.updLane_lane_ne _ _ own]
    · rw [State.restartSucceeds, State.answerRestart_lane, (State.tellAttached_only _ x _).rest.lane, State.updLane_lane_ne _ _ own]

/-- A lane whose recovery sequence makes an attempt: it waits with a run or for a restart, not both. -/
structure Lane.Recovering (l : Lane) : Prop where
  mode : l.mode = .recovery
  sweep : l.sweep = none
  closing : l.closing = false
  restart : l.restart.isSome = true → l.run = none

theorem Lane.Recovering.recovered {l : Lane} (rec : l.Recovering) (ok : Bool) (now : Nat) :
    (l.recovered ok now).fits = true ∧ (l.recovered ok now).mode ≠ .load := by
  obtain ⟨mode, sweep, closing, quiet⟩ := rec
  unfold Lane.recovered
  cases restart : l.restart with
  | some k =>
    have run := quiet (by rw [restart]; rfl)
    cases ok
    · simp [Lane.fits_iff, Lane.fieldsFit, Lane.toFaulted, sweep, run]
    · simp [Lane.fits_iff, Lane.fieldsFit, Lane.toIdle, sweep, run]
  | none =>
    cases ok
    · simp [Lane.fits_iff, Lane.fieldsFit, Lane.toFaulted, sweep, restart]
    · cases run : l.run with
      | none => simp [Lane.fits_iff, Lane.fieldsFit, Lane.toIdle, sweep, restart, run]
      | some r => simp [Lane.fits_iff, Lane.fieldsFit, Lane.nextAttempt, Lane.onLines, sweep, restart, run]

/-- What an attempt of a recovery sequence on lane x leaves: the lane fits, and a PENDING slot still waits for its restart. -/
structure State.Tried (u t : State) (x : LaneId) : Prop where
  reset : t.resetAsserted = u.resetAsserted
  loader : t.loader = u.loader
  others : ∀ y, y ≠ x → t.lane y = u.lane y
  fits : (t.lane x).fits = true
  load : (t.lane x).mode ≠ .load
  pending : ∀ h, (t.host h).port.slot = .pending → (u.host h).port.slot = .pending
    ∧ ∀ k, (u.lane x).restart = some k → k.live = true → k.caller = h → (t.lane x).restart = some k

theorem State.recoveryEnd_reset (s : State) (x : LaneId) (r : Recovery) (ok : Bool) :
    (s.recoveryEnd x r ok).resetAsserted = s.resetAsserted := by
  obtain ⟨u, only, ends⟩ := s.recoveryEnd_cases x r ok
  have same : u.resetAsserted = s.resetAsserted := only.rest.resetAsserted.trans (by cases x <;> rfl)
  have answer (v : State) (k : Restart) (st : Status) : (v.answerRestart x k st).resetAsserted = v.resetAsserted := by
    unfold State.answerRestart
    split <;> rfl
  have lane (v : State) (f : Lane → Lane) : (v.updLane x f).resetAsserted = v.resetAsserted := by cases x <;> rfl
  rw [ends, ← same]
  cases (s.lane x).restart <;> cases ok <;> dsimp only
  · unfold State.laneFault
    rw [(State.tellAttached_only _ x _).rest.resetAsserted]
    split
    · rw [(State.endRun_only _ x _ _ _ fun s => s.faultSearch_only x).rest.resetAsserted]
      exact lane u _
    · rw [(State.faultSearch_only _ x).rest.resetAsserted, lane]
  · exact lane u _
  · rw [State.restartFails, answer, (State.faultSearch_only _ x).rest.resetAsserted, lane]
  · rw [State.restartSucceeds, answer, (State.tellAttached_only _ x _).rest.resetAsserted, lane]

theorem State.recoveryEnd_tried {u : State} {x : LaneId} (rec : (u.lane x).Recovering) (r : Recovery) (ok : Bool) :
    u.Tried (u.recoveryEnd x r ok) x := by
  have lane := u.recoveryEnd_lane x r ok x
  rw [if_pos rfl] at lane
  obtain ⟨fits, load⟩ := rec.recovered ok u.elapsed
  refine ⟨u.recoveryEnd_reset x r ok, (u.recoveryEnd_moved x r ok).loader,
    fun y own => by rw [State.recoveryEnd_lane, if_neg own], by rwa [lane], by rwa [lane], fun h pending => ?_⟩
  rcases u.recoveryEnd_port x r ok h with ⟨same, nobody⟩ | ⟨k, a, _, _, _, stored⟩
  · rw [same] at pending
    exact ⟨pending, fun k restart live caller => absurd caller (nobody k restart live)⟩
  · rw [stored] at pending
    cases pending

theorem State.recoveryTry_tried {u : State} {x : LaneId} (rec : (u.lane x).Recovering) (r : Recovery) (o : RecoveryObs) :
    u.Tried (u.recoveryTry x r o) x := by
  rcases u.recoveryTry_cases x r o with ⟨_, ends⟩ | ⟨_, _, ends⟩ | ⟨_, _, goesOn⟩
  · rw [ends]
    exact State.recoveryEnd_tried rec _ _
  · rw [ends]
    exact State.recoveryEnd_tried rec _ _
  · rw [goesOn]
    obtain ⟨mode, sweep, closing, quiet⟩ := rec
    refine ⟨by cases x <;> rfl, by cases x <;> rfl, fun y own => State.updLane_lane_ne u _ own, ?_, ?_, fun h pending => ?_⟩
    · rw [State.updLane_lane_self]
      simpa [Lane.fits_iff, Lane.fieldsFit, mode, sweep, closing] using quiet
    · rw [State.updLane_lane_self]
      simp [mode]
    · rw [State.updLane_host] at pending
      exact ⟨pending, fun k restart _ _ => by rw [State.updLane_lane_self]; exact restart⟩

/-- From a lane that is not in LOAD an attempt keeps the law of the engines. -/
theorem State.Tried.engine {s t : State} {x : LaneId} {f : Lane → Lane} (tried : (s.updLane x f).Tried t x)
    (restart : (f (s.lane x)).restart = (s.lane x).restart) (load : (s.lane x).mode ≠ .load) : s.EngineKept t := by
  have others (y : LaneId) (own : y ≠ x) : t.lane y = s.lane y := by rw [tried.others y own, State.updLane_lane_ne s f own]
  have at' {P : LaneId → Prop} (here : P x) (other : ∀ y, y ≠ x → P y) (y : LaneId) : P y := by
    by_cases own : y = x
    · rw [own]; exact here
    · exact other y own
  refine ⟨tried.reset.trans (by cases x <;> rfl), by rw [tried.loader]; cases x <;> rfl, at' (fun _ => tried.fits) fun y own => ?_,
    at' (fun _ => iff_of_false tried.load load) fun y own => ?_, fun h pending => ?_⟩
  · rw [others y own]; exact id
  · rw [others y own]; exact fun _ => Iff.rfl
  · obtain ⟨before, kept⟩ := tried.pending h pending
    rw [State.updLane_host] at before
    refine ⟨before, at' (fun k some => kept k ?_) fun y own k some _ _ => ?_⟩
    · rw [State.updLane_lane_self, restart]
      exact some
    · rw [others y own]
      exact some

theorem State.stuckReached_engine (s : State) (x : LaneId) (line : Line) (since : Nat) (o : RecoveryObs) (law : (s.lane x).fits = true) :
    s.EngineKept (s.stuckReached x line since o) := by
  unfold State.stuckReached
  split
  · next acts =>
    have both : (s.updLane x fun l => { l with sweep := none, grantOwed := l.grantOwed || l.sweep.isSome }).recoveryBegin x o =
        (s.updLane x fun l => { l with sweep := none, grantOwed := l.grantOwed || l.sweep.isSome, mode := .recovery, closing := false }).recoveryTry
          x { attempts := 0, start := s.elapsed, nextTick := 0 } o := by
      unfold State.recoveryBegin
      cases x <;> rfl
    rw [both]
    obtain ⟨acts, _⟩ := acts
    rw [Lane.fits_iff, Lane.fieldsFit] at law
    refine State.Tried.engine (State.recoveryTry_tried ⟨?_, ?_, ?_, ?_⟩ _ o) rfl ?_
    · rw [State.updLane_lane_self]
    · rw [State.updLane_lane_self]
    · rw [State.updLane_lane_self]
    · rw [State.updLane_lane_self]
      intro some
      dsimp only at some ⊢
      unfold Lane.stuckActs at acts
      cases mode : (s.lane x).mode <;> simp only [mode] at acts law <;> simp_all
    · intro load
      simp [Lane.stuckActs, load] at acts
  · exact .refl s

theorem State.recoveryNext_engine (s : State) (x : LaneId) (o : RecoveryObs) (law : (s.lane x).fits = true) :
    s.EngineKept (s.recoveryNext x o) := by
  unfold State.recoveryNext
  split
  · next r _ =>
    split
    · next due =>
      rw [Lane.fits_iff, Lane.fieldsFit, due.1] at law
      obtain ⟨sweep, _, closing, quiet⟩ := law
      have same : s.updLane x id = s := by cases x <;> rfl
      refine State.Tried.engine (f := id) ?_ rfl (by rw [due.1]; simp)
      rw [same]
      exact State.recoveryTry_tried ⟨due.1, sweep, closing, quiet⟩ r o
    · exact .refl s
  · exact .refl s

/-! ## Choices and foreign controllers -/

theorem State.lineLow_engine (s : State) (x : LaneId) (line : Line) : s.EngineKept (s.lineLow x line) := by
  unfold State.lineLow
  split
  · next mode =>
    refine State.updLane_engine (fun fits => ?_) rfl
    rw [Lane.fits_iff, Lane.fieldsFit, mode] at fits
    obtain ⟨_, sweep, recovery, restart, _⟩ := fits
    simp [Lane.fits_iff, Lane.fieldsFit, Lane.toForeign, mode, sweep, recovery, restart]
  · exact .refl s

theorem State.leaveForeign_engine (s : State) (x : LaneId) : s.EngineKept (s.leaveForeign x) := by
  unfold State.leaveForeign
  split
  · next mode =>
    refine State.updLane_engine (fun fits => ?_) (by split <;> rfl)
    rw [Lane.fits_iff, Lane.fieldsFit, mode] at fits
    obtain ⟨sweep, recovery, restart, _⟩ := fits
    rw [mode]
    split
    · next run => exact ⟨Lane.nextAttempt_fits run sweep recovery restart _, by simp [Lane.nextAttempt]⟩
    · next run =>
      simp only [Bool.not_eq_true, Option.isSome_eq_false_iff, Option.isNone_iff_eq_none] at run
      simp [Lane.fits_iff, Lane.fieldsFit, Lane.toIdle, sweep, recovery, restart, run]
  · exact .refl s

theorem State.idleReached_engine (s : State) (x : LaneId) (since : Nat) : s.EngineKept (s.idleReached x since) := by
  unfold State.idleReached
  split
  · exact s.leaveForeign_engine x
  · exact .refl s

theorem State.alertRises_engine (s : State) (x : LaneId) : s.EngineKept (s.alertRises x) := by
  unfold State.alertRises
  split
  · exact State.updLane_engine (fun fits => ⟨fits, Iff.rfl⟩) rfl
  · exact .refl s

/-- What a fold over candidates leaves of the state but the queues. -/
theorem State.raised_engine (cs : List (HostId × List SubEntry)) (h : HostId) (s : State) :
    s.EngineKept (cs.foldl (fun s c => if c.1 = h then s else s.updHost c.1 fun d => d.raiseBypass c.2) s)
      ∧ ∀ y, (cs.foldl (fun s c => if c.1 = h then s else s.updHost c.1 fun d => d.raiseBypass c.2) s).lane y = s.lane y := by
  induction cs generalizing s with
  | nil => exact ⟨.refl s, fun _ => rfl⟩
  | cons c cs ih =>
    rw [List.foldl_cons]
    obtain ⟨kept, lanes⟩ := ih (if c.1 = h then s else s.updHost c.1 fun d => d.raiseBypass c.2)
    refine ⟨State.EngineKept.trans ?_ kept, fun y => (lanes y).trans ?_⟩
    · split
      · exact .refl s
      · exact State.updHost_engine id
    · split <;> rfl

theorem State.grant_engine {s : State} {x : LaneId} (idle : (s.lane x).mode = .idle) (cs : List (HostId × List SubEntry)) (h : HostId)
    (g : List SubEntry) : s.EngineKept (s.grant x cs h g) := by
  obtain ⟨kept, lanes⟩ := State.raised_engine cs h s
  unfold State.grant
  refine (kept.trans (State.updHost_engine id)).trans (State.updLane_engine (fun fits => ?_) rfl)
  rw [State.updHost_lane, lanes] at fits ⊢
  rw [Lane.fits_iff, Lane.fieldsFit, idle] at fits
  obtain ⟨_, sweep, recovery, restart, _⟩ := fits
  rw [idle]
  simp [Lane.fits_iff, Lane.fieldsFit, Lane.onLines, sweep, recovery, restart]

theorem State.sweepBegin_engine {s : State} {x : LaneId} (idle : (s.lane x).mode = .idle) : s.EngineKept (s.sweepBegin x) := by
  unfold State.sweepBegin
  generalize ({ speed := (s.lane x).speed, position := none, found := false, visit := none } : Sweep) = w
  have fields (fits : (s.lane x).fits = true) : (s.lane x).run = none ∧ (s.lane x).recovery = none ∧ (s.lane x).restart = none := by
    rw [Lane.fits_iff, Lane.fieldsFit, idle] at fits
    exact ⟨fits.1, fits.2.2.1, fits.2.2.2.1⟩
  rcases State.sweepOn_cases (s.updLane x fun l => { l with mode := .sweep }) x w with ⟨t, _, visits⟩ | ⟨_, ends⟩
  · rw [visits, State.updLane_updLane]
    refine State.updLane_engine (fun fits => ?_) rfl
    obtain ⟨run, recovery, restart⟩ := fields fits
    simp [Lane.fits_iff, Lane.fieldsFit, Lane.onLines, idle, run, recovery, restart]
  · rw [ends]
    refine State.EngineKept.trans ?_ (State.sweepEnd_only _ x w.found).engine
    rw [State.updLane_updLane]
    refine State.updLane_engine (fun fits => ?_) rfl
    obtain ⟨run, recovery, restart⟩ := fields fits
    simp [Lane.fits_iff, Lane.fieldsFit, Lane.toIdle, idle, run, recovery, restart]

theorem State.choose_engine (s : State) (x : LaneId) : s.EngineKept (s.choose x) := by
  unfold State.choose
  split
  · next row =>
    dsimp only
    split
    · exact State.sweepBegin_engine row.1
    · split
      · exact State.grant_engine row.1 _ _ _
      · exact .refl s
  · exact .refl s

/-! ## Teardowns -/

theorem State.discardRun_engine (s : State) (h : HostId) (x : LaneId) : s.EngineKept (s.discardRun h x) := by
  unfold State.discardRun
  split
  · next r run =>
    split
    · refine (State.updHost_engine (s := s) (h := h) id).trans (State.updLane_engine (fun fits => ?_) rfl)
      rw [State.updHost_lane] at fits ⊢
      have same : ({ s.lane x with run := some { r with discarded := true } } : Lane).fits = (s.lane x).fits := by
        simp [Lane.fits, run]
      exact ⟨same.trans fits, Iff.rfl⟩
    · exact .refl s
  · exact .refl s

theorem State.dropClaim_engine (s : State) (h : HostId) : s.EngineKept (s.dropClaim h) := by
  unfold State.dropClaim
  split
  · exact .of_lane .A rfl rfl (fun _ _ => rfl) (fun fits => ⟨fits, Iff.rfl⟩) rfl fun _ => id
  · exact .refl s

theorem Restart.abandonedBy_of_other {k : Restart} {h : HostId} (other : k.caller ≠ h) : k.abandonedBy h = k := by
  simp [Restart.abandonedBy, other]

theorem Lane.abandonRestart_fits (h : HostId) (l : Lane) : (l.abandonRestart h).fits = l.fits := by
  unfold Lane.fits Lane.abandonRestart
  cases l.restart <;> rfl

theorem State.abandoned_lane (s : State) (h : HostId) (x : LaneId) :
    ((s.updLane .A (Lane.abandonRestart h)).updLane .B (Lane.abandonRestart h)).lane x = (s.lane x).abandonRestart h := by
  cases x <;> rfl

/-- A host that is torn down waits for no restart any more, and no other host's restart is touched (R115, R174). -/
theorem State.abandoned_engine (s : State) (h : HostId) : s.EngineKept
    ((((s.updLane .A (Lane.abandonRestart h)).updLane .B (Lane.abandonRestart h))).updPort h Port.cleared) := by
  refine ⟨rfl, Iff.rfl, fun x fits => ?_, fun x _ => ?_, fun g pending => ?_⟩
  · rw [State.updPort_lane, State.abandoned_lane, Lane.abandonRestart_fits]
    exact fits
  · rw [State.updPort_lane, State.abandoned_lane]
    exact Iff.rfl
  · rw [State.updPort_host] at pending
    split at pending
    · cases pending
    · next other =>
      refine ⟨pending, fun x k restart _ caller => ?_⟩
      rw [State.updPort_lane, State.abandoned_lane, Lane.abandonRestart]
      dsimp only
      rw [restart, Option.map_some, Restart.abandonedBy_of_other (by rw [caller]; exact other)]

theorem State.teardown_engine (s : State) (h : HostId) : s.EngineKept (s.teardown h) := by
  have work := ((State.updHost_engine (s := s) (h := h) (f := HostCtx.clearWork) id).trans (State.discardRun_engine _ h .A)).trans
    (State.discardRun_engine _ h .B)
  have leases := work.trans (TablesOnly.foldl _ (fun u t => u.leaseTeardown_only h t) allTargets _).engine
  exact (leases.trans (State.dropClaim_engine _ h)).trans (State.abandoned_engine _ h)

theorem State.hostResetFalls_engine (s : State) (h : HostId) : s.EngineKept (s.hostResetFalls h) := by
  unfold State.hostResetFalls
  split
  · exact ((State.updHost_engine (s := s) (h := h) id).trans (State.teardown_engine _ h)).trans
      (State.updPort_engine fun pending => nomatch pending)
  · exact .refl s

theorem State.hostResetRises_engine (s : State) (h : HostId) : s.EngineKept (s.hostResetRises h) := by
  unfold State.hostResetRises
  split
  · exact .refl s
  · exact State.updHost_engine id

end Sys2Proof.Machine
end

section
/-! PROOFS. Every command keeps the law of the engines (R88, R185): what the ports, the commands and the image load do to lanes and slots. -/

namespace Sys2Proof.Machine

/-! ## Commands that leave the engines and the ports -/

/-- The fields of a lane's engine are the same (R88). -/
structure Lane.SameEngine (l k : Lane) : Prop where
  mode : k.mode = l.mode
  run : k.run = l.run
  sweep : k.sweep = l.sweep
  recovery : k.recovery = l.recovery
  restart : k.restart = l.restart
  closing : k.closing = l.closing

theorem Lane.SameEngine.refl (l : Lane) : l.SameEngine l := ⟨rfl, rfl, rfl, rfl, rfl, rfl⟩

/-- The engines, the loader and every port are as they were. -/
structure State.EnginesSame (s t : State) : Prop where
  reset : t.resetAsserted = s.resetAsserted
  loader : t.loader = s.loader
  lanes : ∀ x, (s.lane x).SameEngine (t.lane x)
  ports : ∀ h, (t.host h).port = (s.host h).port

theorem State.EnginesSame.refl (s : State) : s.EnginesSame s := ⟨rfl, rfl, fun _ => .refl _, fun _ => rfl⟩

theorem State.EnginesSame.engine {s t : State} (same : s.EnginesSame t) : s.EngineKept t := by
  refine ⟨same.reset, by rw [same.loader], fun x fits => ?_, fun x _ => ?_, fun h pending => ?_⟩
  · obtain ⟨mode, run, sweep, recovery, restart, closing⟩ := same.lanes x
    rwa [Lane.fits_congr mode run sweep recovery restart closing]
  · rw [(same.lanes x).mode]
  · rw [same.ports] at pending
    exact ⟨pending, fun x k restart _ _ => (same.lanes x).restart.trans restart⟩

theorem State.TablesOnly.same {s t : State} (only : s.TablesOnly t) : s.EnginesSame t :=
  ⟨only.rest.resetAsserted, only.rest.loader, fun x => by rw [only.rest.lane]; exact .refl _, only.port⟩

theorem State.updHost_same {s : State} {h : HostId} {f : HostCtx → HostCtx} (port : (f (s.host h)).port = (s.host h).port) :
    s.EnginesSame (s.updHost h f) := by
  refine ⟨rfl, rfl, fun _ => .refl _, fun g => ?_⟩
  rw [State.updHost_host]
  split
  · next own => rw [own]; exact port
  · rfl

theorem State.withTrace_same (s : State) (t : Trace) : s.EnginesSame { s with trace := t } :=
  ⟨rfl, rfl, fun _ => .refl _, fun _ => rfl⟩

theorem submitCommand_same (h : HostId) (p : List Byte) (s : State) : s.EnginesSame (submitCommand h p s).1 := by
  unfold submitCommand
  split
  · exact .refl s
  · split
    · exact .refl s
    · dsimp only [State.acceptDescriptor]
      exact State.updHost_same rfl

theorem cancelCommand_same (h : HostId) (p : List Byte) (s : State) : s.EnginesSame (cancelCommand h p s).1 := by
  unfold cancelCommand
  split
  · exact .refl s
  · split
    · exact (s.endWork_only h _ _).tables.same
    · split <;> exact .refl s

theorem resumeCommand_same (h : HostId) (s : State) : s.EnginesSame (resumeCommand h s).1 := by
  dsimp only [resumeCommand]
  exact State.updHost_same rfl

theorem fetchCompletionCommand_same (h : HostId) (s : State) : s.EnginesSame (fetchCompletionCommand h s).1 := by
  unfold fetchCompletionCommand
  split
  · exact .refl s
  · dsimp only
    exact State.updHost_same rfl

theorem retireCommand_same (h : HostId) (p : List Byte) (s : State) : s.EnginesSame (retireCommand h p s).1 := by
  unfold retireCommand
  split
  · exact .refl s
  · split
    · split
      · dsimp only
        exact State.updHost_same rfl
      · exact .refl s
    · exact .refl s

theorem fetchNoticeCommand_same (h : HostId) (s : State) : s.EnginesSame (fetchNoticeCommand h s).1 := by
  unfold fetchNoticeCommand
  split
  · exact .refl s
  · dsimp only
    exact State.updHost_same rfl

theorem ackNoticeCommand_same (h : HostId) (s : State) : s.EnginesSame (ackNoticeCommand h s).1 := by
  unfold ackNoticeCommand
  split
  · dsimp only
    exact State.updHost_same rfl
  · exact .refl s

theorem leaseDecide_same (h : HostId) (t : TargetId) (d : Nat) (noWait : Bool) (s : State) :
    s.EnginesSame (leaseDecide h t d noWait s).1 := by
  unfold leaseDecide
  dsimp only
  split
  · dsimp only
    exact (s.updLease_only t _).same
  · split
    · exact .refl s
    · split
      · exact .refl s
      · split
        · dsimp only
          exact (s.updLease_only t _).same
        · split
          · exact .refl s
          · split
            · exact .refl s
            · dsimp only
              exact (s.updLease_only t _).same

theorem leaseCommand_same (h : HostId) (p : List Byte) (s : State) : s.EnginesSame (leaseCommand h p s).1 := by
  unfold leaseCommand
  split
  · exact .refl s
  · split
    · exact .refl s
    · split
      · exact .refl s
      · split
        · exact .refl s
        · exact leaseDecide_same h _ _ _ s

theorem releaseCommand_same (h : HostId) (p : List Byte) (s : State) : s.EnginesSame (releaseCommand h p s).1 := by
  unfold releaseCommand
  split
  · exact .refl s
  · dsimp only
    split
    · exact (s.leaseEnd_only _ _).same
    · split
      · exact .refl s
      · split
        · exact (s.withdraw_only _ h).same
        · exact .refl s

theorem leaseRevoke_same (p : List Byte) (s : State) : s.EnginesSame (leaseRevoke p s).1 := by
  unfold leaseRevoke
  split
  · exact .refl s
  · split
    · exact .refl s
    · exact (s.leaseEnd_only _ _).same

theorem tableRead_same (p : List Byte) (s : State) : s.EnginesSame (tableRead p s).1 := by
  unfold tableRead
  split <;> exact .refl s

theorem tableWrite_same (p : List Byte) (s : State) : s.EnginesSame (tableWrite p s).1 := by
  unfold tableWrite
  split
  · exact .refl s
  · split
    · exact .refl s
    · split
      · exact .refl s
      · exact (s.writeEntry_only _ _ _).same

theorem targetControl_same (p : List Byte) (s : State) : s.EnginesSame (targetControl p s).1 := by
  unfold targetControl
  split
  · exact .refl s
  · next t a _ =>
    split
    · exact .refl s
    · cases a with
      | online => exact (s.controlOnline_only t).same
      | offline => exact (s.controlOffline_only t).same
      | quarantine => exact (s.controlQuarantine_only t).same

theorem laneConfig_same (p : List Byte) (s : State) : s.EnginesSame (laneConfig p s).1 := by
  unfold laneConfig
  split
  · exact .refl s
  · next x v enabled _ =>
    refine ⟨by cases x <;> rfl, by cases x <;> rfl, fun y => ?_, fun h => by cases x <;> rfl⟩
    dsimp only
    by_cases own : y = x
    · rw [own, State.updLane_lane_self]
      exact ⟨rfl, rfl, rfl, rfl, rfl, rfl⟩
    · rw [State.updLane_lane_ne _ _ own]
      exact .refl _

theorem laneStatus_same (p : List Byte) (o : LaneObs) (s : State) : s.EnginesSame (laneStatus p o s).1 := by
  unfold laneStatus
  split <;> exact .refl s

theorem hostStatus_same (h : HostId) (p : List Byte) (s : State) : s.EnginesSame (hostStatus h p s).1 := by
  unfold hostStatus
  split
  · exact .refl s
  · split <;> exact .refl s

theorem hostConfig_same (h : HostId) (p : List Byte) (s : State) : s.EnginesSame (hostConfig h p s).1 := by
  unfold hostConfig
  split
  · exact .refl s
  · dsimp only
    exact State.updHost_same rfl

theorem hostRights_same (p : List Byte) (s : State) : s.EnginesSame (hostRights p s).1 := by
  unfold hostRights
  split
  · exact .refl s
  · split
    · exact .refl s
    · dsimp only
      exact State.updHost_same rfl

theorem traceClaim_same (h : HostId) (p : List Byte) (s : State) : s.EnginesSame (traceClaim h p s).1 := by
  unfold traceClaim
  split
  · exact .refl s
  · split
    · exact .refl s
    · dsimp only
      split
      · exact s.withTrace_same _
      · split
        · exact s.withTrace_same _
        · exact .refl s

theorem State.dropClaim_same (s : State) (h : HostId) : s.EnginesSame (s.dropClaim h) := by
  unfold State.dropClaim
  split
  · exact s.withTrace_same _
  · exact .refl s

theorem traceRelease_same (h : HostId) (s : State) : s.EnginesSame (traceRelease h s).1 := by
  unfold traceRelease
  split
  · exact s.dropClaim_same h
  · exact .refl s

theorem traceControl_same (h : HostId) (p : List Byte) (s : State) : s.EnginesSame (traceControl h p s).1 := by
  unfold traceControl
  split
  · exact .refl s
  · split
    · exact .refl s
    · exact s.withTrace_same _

theorem traceRead_same (p : List Byte) (s : State) : s.EnginesSame (traceRead p s).1 := by
  unfold traceRead
  split <;> exact .refl s

/-- Every owning block but those of LANE_RESTART and DETACH leaves engines and ports, and answers at once. -/
theorem runCommand_same {h : HostId} {c : Cmd} (noRestart : c ≠ .laneRestart) (noDetach : c ≠ .detach) (f : Frame) (o : LaneObs)
    (s : State) : s.EnginesSame (runCommand h c f o s).1 := by
  cases c with
  | submit => exact submitCommand_same h _ s
  | cancel => exact cancelCommand_same h _ s
  | resume => exact resumeCommand_same h s
  | fetchCompletion => exact fetchCompletionCommand_same h s
  | retire => exact retireCommand_same h _ s
  | fetchNotice => exact fetchNoticeCommand_same h s
  | ackNotice => exact ackNoticeCommand_same h s
  | lease => exact leaseCommand_same h _ s
  | release => exact releaseCommand_same h _ s
  | leaseRevoke => exact leaseRevoke_same _ s
  | tableRead => exact tableRead_same _ s
  | tableWrite => exact tableWrite_same _ s
  | targetControl => exact targetControl_same _ s
  | laneConfig => exact laneConfig_same _ s
  | laneStatus => exact laneStatus_same _ o s
  | laneRestart => exact absurd rfl noRestart
  | hostStatus => exact hostStatus_same h _ s
  | hostConfig => exact hostConfig_same h _ s
  | hostRights => exact hostRights_same _ s
  | detach => exact absurd rfl noDetach
  | traceClaim => exact traceClaim_same h _ s
  | traceRelease => exact traceRelease_same h s
  | traceControl => exact traceControl_same h _ s
  | traceRead => exact traceRead_same _ s
  | deviceInfo => exact .refl s

theorem runCommand_answers {h : HostId} {c : Cmd} (noRestart : c ≠ .laneRestart) (f : Frame) (o : LaneObs) (s : State) :
    ∃ r, (runCommand h c f o s).2 = some r := by
  cases c <;> first | exact absurd rfl noRestart | exact ⟨_, rfl⟩

/-! ## A teardown leaves the other ports (R174) -/

theorem State.discardRun_port (s : State) (h : HostId) (x : LaneId) (g : HostId) :
    ((s.discardRun h x).host g).port = (s.host g).port := by
  unfold State.discardRun
  split
  · split
    · rw [State.updLane_host, State.updHost_host]
      split
      · next own => rw [own]
      · rfl
    · rfl
  · rfl

theorem State.teardown_port_ne (s : State) {h g : HostId} (other : g ≠ h) : ((s.teardown h).host g).port = (s.host g).port := by
  unfold State.teardown
  dsimp only
  rw [State.updPort_host, if_neg other, State.updLane_host, State.updLane_host, (State.dropClaim_same _ h).ports,
    (TablesOnly.foldl _ (fun u t => u.leaseTeardown_only h t) allTargets _).port, State.discardRun_port, State.discardRun_port,
    State.updHost_host, if_neg other]

/-! ## Executed frames are answered (R182, R183, R189) -/

theorem runCommand_port_ne {h : HostId} {c : Cmd} (noRestart : c ≠ .laneRestart) (f : Frame) (o : LaneObs) (s : State) {g : HostId}
    (other : g ≠ h) : ((runCommand h c f o s).1.host g).port = (s.host g).port := by
  by_cases detach : c = .detach
  · subst detach
    exact s.teardown_port_ne other
  · exact (runCommand_same noRestart detach f o s).ports g

theorem Cmd.code_of_ofCode {b : Byte} {c : Cmd} (known : Cmd.ofCode b = some c) : c.code = b := by
  have found := List.find?_some known
  exact of_decide_eq_true found

theorem commandUnit_code {h : HostId} {f : Frame} {s : State} {c : Cmd} (passes : commandUnit h f s = .ok c) : c.code = f.code := by
  unfold commandUnit at passes
  split at passes
  · cases passes
  · next known =>
    split at passes
    · cases passes
    · split at passes
      · cases passes
      · split at passes
        · cases passes
        · cases passes
          exact Cmd.code_of_ofCode known

/-- Settles O4: the Command Unit refuses the frame, or its owning block answers; either way the response is stored in the caller's port
and no other port is touched. -/
theorem executedFramesAreAnswered : Obligations.ExecutedFramesAreAnswered := by
  intro s h f o lasted heard executes noRestart
  have stored : ∃ (s' : State) (r : Reply), s.execute h f o = s'.respond h f r ∧ ∀ g, g ≠ h → (s'.host g).port = (s.host g).port := by
    have other {c : Cmd} (passes : commandUnit h f s = .ok c) : c ≠ .laneRestart := fun same => by
      rw [same] at passes
      exact noRestart (commandUnit_code passes).symm
    rcases s.execute_cases h f o with ⟨st, _, refused⟩ | ⟨c, s', r, passes, run, answered⟩ | ⟨c, s', passes, run, _⟩
    · exact ⟨s, plain st, refused, fun _ _ => rfl⟩
    · refine ⟨s', r, answered, fun g own => ?_⟩
      have port := runCommand_port_ne (other passes) f o s own
      rwa [run] at port
    · obtain ⟨r, answers⟩ := runCommand_answers (h := h) (other passes) f o s
      rw [run] at answers
      cases answers
  obtain ⟨s', r, executed, ports⟩ := stored
  have next : exec (.commandFrame ⟨h, lasted⟩ f o) s = .next (s'.updPort h fun q => q.answered f r) := by
    rw [← State.respond_answered, ← executed, ← State.takeFrame_executes s h f o lasted heard executes]
    rfl
  refine ⟨_, r.status, r.payload, next, ?_, ?_, ?_, fun g own => ?_⟩
  · rw [State.updPort_port_self]
    rfl
  · rw [State.updPort_port_self]
    rfl
  · rw [State.updPort_port_self]
    rfl
  · rw [State.updPort_host, if_neg own]
    exact ports g own

end Sys2Proof.Machine
end

section
/-! PROOFS. The law of the lanes and of the PENDING slots, row by row (R87, R88, R185). -/

namespace Sys2Proof.Machine

/-! ## LANE_RESTART (R114, R185) -/

/-- An accepted LANE_RESTART makes its caller's slot PENDING for the restart it begins. -/
theorem State.beginRestart_law {s : State} (law : s.engineLaw) (released : s.resetAsserted = false) {x : LaneId}
    (faulted : (s.lane x).mode = .faulted) (h : HostId) (exch check : Byte) (o : RecoveryObs) :
    (s.beginRestart h x exch check o).engineLaw := by
  have fields := law.1.fits released x
  rw [Lane.fits_iff, Lane.fieldsFit, faulted] at fields
  obtain ⟨run, sweep, _, restart, _⟩ := fields
  let k : Restart := { caller := h, exch := exch, check := check, live := true }
  let w := ((s.updLane x fun l => { l with restart := some k }).updPort h Port.awaitRestart).updLane x fun l =>
    { l with mode := .recovery, closing := false }
  have here : w.lane x = { s.lane x with restart := some k, mode := .recovery, closing := false } := by
    rw [State.updLane_lane_self, State.updPort_lane, State.updLane_lane_self]
  have there (y : LaneId) (own : y ≠ x) : w.lane y = s.lane y := by
    rw [State.updLane_lane_ne _ _ own, State.updPort_lane, State.updLane_lane_ne _ _ own]
  have recovering : (w.lane x).Recovering := by
    rw [here]
    exact ⟨rfl, sweep, rfl, fun _ => run⟩
  have tried := State.recoveryTry_tried recovering { attempts := 0, start := w.elapsed, nextTick := 0 } o
  have began : s.beginRestart h x exch check o = w.recoveryTry x { attempts := 0, start := w.elapsed, nextTick := 0 } o := by
    cases x <;> rfl
  rw [began]
  generalize w.recoveryTry x { attempts := 0, start := w.elapsed, nextTick := 0 } o = t at tried
  have others (y : LaneId) (own : y ≠ x) : t.lane y = s.lane y := (tried.others y own).trans (there y own)
  have loader : t.loader = s.loader := tried.loader.trans (by cases x <;> rfl)
  obtain ⟨fitsA, fitsB, loadA, loadB⟩ := law.1 released
  refine ⟨fun _ => ?_, fun _ g pending => ?_⟩
  · cases x with
    | A =>
      have laneB : t.laneB = s.laneB := others .B (by simp)
      refine ⟨tried.fits, by rw [laneB]; exact fitsB, iff_of_false tried.load ?_, by rw [laneB]; exact loadB⟩
      rw [loader, ← loadA, show s.laneA.mode = .faulted from faulted]
      simp
    | B =>
      have laneA : t.laneA = s.laneA := others .A (by simp)
      exact ⟨by rw [laneA]; exact fitsA, tried.fits, by rw [laneA, loader]; exact loadA, tried.load⟩
  · obtain ⟨before, kept⟩ := tried.pending g pending
    rw [State.updLane_host, State.updPort_host] at before
    split at before
    · next own => exact ⟨x, k, kept k (by rw [here]) rfl own.symm, own.symm, rfl⟩
    · rw [State.updLane_host] at before
      obtain ⟨y, j, waits, caller, live⟩ := law.2 released g before
      have own : y ≠ x := fun same => by
        rw [same, restart] at waits
        cases waits
      exact ⟨y, j, by rw [others y own]; exact waits, caller, live⟩

/-! ## Frames -/

theorem runCommand_detach (h : HostId) (f : Frame) (o : LaneObs) (s : State) : (runCommand h .detach f o s).1 = s.teardown h := rfl

theorem State.EngineKept.respond {s s' : State} (kept : s.EngineKept s') (h : HostId) (f : Frame) (r : Reply) :
    s.EngineKept (s'.respond h f r) :=
  kept.trans (State.updPort_engine fun no => nomatch no)

theorem State.execute_law {s : State} (law : s.engineLaw) (released : s.resetAsserted = false) (h : HostId) (f : Frame) (o : LaneObs) :
    (s.execute h f o).engineLaw := by
  rcases s.execute_cases h f o with ⟨st, _, refused⟩ | ⟨c, s', r, _, run, answered⟩ | ⟨c, s', _, run, waits⟩
  · rw [refused]
    exact ((State.EngineKept.refl s).respond h f _).law law
  · rw [answered]
    by_cases restart : c = .laneRestart
    · subst restart
      have stays : s' = s := by
        simp only [runCommand, laneRestart] at run
        split at run
        · cases run; rfl
        · split at run <;> cases run
          rfl
      rw [stays]
      exact ((State.EngineKept.refl s).respond h f r).law law
    · have kept : s.EngineKept s' := by
        by_cases detach : c = .detach
        · subst detach
          have torn : (runCommand h .detach f o s).1 = s' := by rw [run]
          rw [← torn, runCommand_detach]
          exact s.teardown_engine h
        · have same := runCommand_same (h := h) restart detach f o s
          rw [run] at same
          exact same.engine
      exact (kept.respond h f r).law law
  · rw [waits]
    by_cases restart : c = .laneRestart
    · subst restart
      simp only [runCommand, laneRestart] at run
      split at run
      · cases run
      · split at run
        · next faulted =>
          cases run
          exact State.beginRestart_law law released faulted h _ _ _
        · cases run
    · obtain ⟨r, answers⟩ := runCommand_answers (h := h) restart f o s
      rw [run] at answers
      cases answers

theorem State.sdoZeros_engine (s : State) (h : HostId) (n : Nat) : s.EngineKept (s.sdoZeros h n) := State.updPort_engine id

theorem State.discard_engine (s : State) (h : HostId) : s.EngineKept (s.updPort h Port.discard) := State.updPort_engine id

theorem State.takeMalformed_engine (s : State) (h : HostId) (exch : Byte) (n : Nat) : s.EngineKept (s.takeMalformed h exch n) := by
  unfold State.takeMalformed
  refine State.EngineKept.trans (State.updPort_engine fun pending => ?_) (State.sdoZeros_engine _ h n)
  split at pending
  · next waits => exact waits
  · cases pending

theorem State.takeFrame_law {s : State} (law : s.engineLaw) (released : s.resetAsserted = false) (h : HostId) (f : Frame)
    (o : LaneObs) : (s.takeFrame h f o).engineLaw := by
  rcases s.takeFrame_cases h f o with ⟨_, malformed⟩ | repeated | ⟨_, discarded⟩ | executed
  · rw [malformed]
    exact (s.takeMalformed_engine h _ _).law law
  · rw [repeated]
    exact (s.sdoZeros_engine h _).law law
  · rw [discarded]
    exact ((s.discard_engine h).trans (State.sdoZeros_engine _ h _)).law law
  · rw [executed]
    exact (State.sdoZeros_engine _ h _).law (s.execute_law law released h f o)

/-! ## The image load (R197 to R201) -/

/-- The load ends: lane A leaves LOAD for IDLE as the loader stops its work. -/
theorem engineLaw_of_loadEnd {s t : State} (law : s.engineLaw) (works : s.loader.phase ≠ .none) (reset : t.resetAsserted = s.resetAsserted)
    (phase : t.loader.phase = .none) (laneA : ({ s.laneA with mode := .idle } : Lane).SameEngine t.laneA)
    (laneB : s.laneB.SameEngine t.laneB) (ports : ∀ h, (t.host h).port = (s.host h).port) : t.engineLaw := by
  refine ⟨fun released => ?_, fun released h pending => ?_⟩
  · rw [reset] at released
    obtain ⟨fitsA, fitsB, loadA, loadB⟩ := law.1 released
    have load := loadA.2 works
    rw [Lane.fits_iff, Lane.fieldsFit, load] at fitsA
    have idle : ({ s.laneA with mode := .idle } : Lane).fits = true := by
      rw [Lane.fits_iff]
      exact fitsA
    refine ⟨?_, ?_, ?_, by rw [laneB.mode]; exact loadB⟩
    · rwa [Lane.fits_congr laneA.mode laneA.run laneA.sweep laneA.recovery laneA.restart laneA.closing]
    · rwa [Lane.fits_congr laneB.mode laneB.run laneB.sweep laneB.recovery laneB.restart laneB.closing]
    · rw [laneA.mode, phase]
      simp
  · rw [reset] at released
    rw [ports] at pending
    obtain ⟨x, k, restart, caller, live⟩ := law.2 released h pending
    refine ⟨x, k, ?_, caller, live⟩
    cases x
    · exact laneA.restart.trans restart
    · exact laneB.restart.trans restart

theorem State.loadFails_law {s : State} (law : s.engineLaw) (works : s.loader.phase ≠ .none) (r : LoadFailure) :
    (s.loadFails r).engineLaw :=
  engineLaw_of_loadEnd law works rfl rfl (.refl _) (.refl _) fun _ => rfl

theorem State.loadApplies_law {s : State} (law : s.engineLaw) (released : s.resetAsserted = false) (works : s.loader.phase ≠ .none) :
    s.loadApplies.engineLaw := by
  refine engineLaw_of_loadEnd law works rfl rfl ⟨rfl, rfl, rfl, rfl, rfl, ?_⟩ ⟨rfl, rfl, rfl, rfl, rfl, rfl⟩ fun _ => rfl
  obtain ⟨fitsA, _, loadA, _⟩ := law.1 released
  rw [Lane.fits_iff, Lane.fieldsFit, loadA.2 works] at fitsA
  exact fitsA.2.2.2.2.symm

theorem State.offerTransfer_only (s : State) (st : CStatus) (out inn : Nat) : s.RecordsOnly (s.offerTransfer st out inn) := by
  unfold State.offerTransfer
  split
  · exact s.offer_only _
  · exact .refl s

/-- The load fails after the offer of its transfer. -/
theorem State.offered_loadFails_law {s : State} (law : s.engineLaw) (works : s.loader.phase ≠ .none) (st : CStatus) (out inn : Nat)
    (r : LoadFailure) : ((s.offerTransfer st out inn).loadFails r).engineLaw := by
  have only := s.offerTransfer_only st out inn
  exact State.loadFails_law (only.engine.law law) (by rw [only.rest.loader]; exact works) r

theorem State.beginTransfer_law {s : State} (law : s.engineLaw) (waits : s.loader.phase ≠ .none) : s.beginTransfer.engineLaw := by
  refine State.EngineKept.law (s := s) ⟨rfl, iff_of_false (by simp [State.beginTransfer]) waits, fun x fits => ?_, fun x _ => ?_,
    fun h pending => ⟨pending, fun x k restart _ _ => ?_⟩⟩ law
  · cases x <;> exact fits
  · cases x <;> exact Iff.rfl
  · cases x <;> exact restart

theorem State.imageStarts_law {s : State} (law : s.engineLaw) (since : Nat) : (s.imageStarts since).engineLaw := by
  unfold State.imageStarts
  split
  · next row => exact State.beginTransfer_law law (Loader.phase_of_waits row.1)
  · exact law

theorem State.imageStopSeen_law {s : State} (law : s.engineLaw) : s.imageStopSeen.engineLaw := by
  unfold State.imageStopSeen
  split
  · next waits => exact State.beginTransfer_law law (by simp [waits])
  · exact law

theorem State.imageField_law {s : State} (law : s.engineLaw) (bytes : List Byte) : (s.imageField bytes).engineLaw := by
  unfold State.imageField
  split
  · split
    · next row =>
      split
      · exact law
      · exact State.offered_loadFails_law law (by simp [row.1]) _ _ _ _
    · exact law
  · exact law

theorem State.imageNacked_law {s : State} (law : s.engineLaw) (w : ImageNack) : (s.imageNacked w).engineLaw := by
  unfold State.imageNacked
  split
  · next row => exact State.offered_loadFails_law law (by simp [row.1]) _ _ _ _
  · exact law

theorem State.imageLost_law {s : State} (law : s.engineLaw) (offsets : Nat) (field : List Byte) :
    (s.imageLost offsets field).engineLaw := by
  unfold State.imageLost
  split
  · next row =>
    dsimp only
    split
    · exact State.offered_loadFails_law law (by simp [row.1]) _ _ _ _
    · have only := s.offerTransfer_only .arbLost offsets (s.loader.image.received.length + field.length)
      generalize s.offerTransfer .arbLost offsets (s.loader.image.received.length + field.length) = u at only
      have works : ¬u.loader.phase = .none := by rw [only.rest.loader, row.1]; simp
      refine State.EngineKept.law (s := u) ⟨rfl, iff_of_false (by simp) works, fun x fits => ?_, fun x _ => ?_,
        fun h pending => ⟨pending, fun x k restart _ _ => ?_⟩⟩ (only.engine.law law)
      · cases x <;> exact fits
      · cases x <;> exact Iff.rfl
      · cases x <;> exact restart
  · exact law

theorem State.imageStretched_law {s : State} (law : s.engineLaw) (since offsets extra : Nat) :
    (s.imageStretched since offsets extra).engineLaw := by
  unfold State.imageStretched
  split
  · next row =>
    have works : s.loader.phase ≠ .none := by
      rcases row.2.2 with waits | ⟨transfer, _⟩
      · exact Loader.phase_of_waits waits
      · simp [transfer]
    refine State.EngineKept.law ?_ (State.offered_loadFails_law law works .stretchTimeout offsets
      (s.loader.image.received.length + extra) .stretchTimeout)
    exact State.updLane_engine (fun fits => ⟨fits, Iff.rfl⟩) rfl
  · exact law

theorem State.imageStuck_law {s : State} (law : s.engineLaw) (since : Nat) : (s.imageStuck since).engineLaw := by
  unfold State.imageStuck
  split
  · next row =>
    refine State.EngineKept.law ?_ (State.loadFails_law law (Loader.phase_of_waits row.1) .noDevice)
    exact State.updLane_engine (fun fits => ⟨fits, Iff.rfl⟩) rfl
  · exact law

theorem State.imageSucceeds_law {s : State} (law : s.engineLaw) (released : s.resetAsserted = false) : s.imageSucceeds.engineLaw := by
  unfold State.imageSucceeds
  split
  · next row =>
    have only := s.offerTransfer_only .ok 2 s.loader.image.received.length
    exact State.loadApplies_law (only.engine.law law) (only.rest.resetAsserted.trans released)
      (by rw [only.rest.loader]; simp [row.1])
  · exact law

/-! ## Every row -/

theorem State.onPort_law {s : State} (law : s.engineLaw) (h : HostId) (lasted : Nat) {f : State → State}
    (acts : s.resetAsserted = false → (f s).engineLaw) : (s.onPort h lasted f).engineLaw := by
  rcases s.onPort_cases h lasted f with deaf | ⟨heard, takes⟩
  · rwa [deaf]
  · rw [takes]
    exact acts (State.hears_attached heard).1

theorem State.live_law {s : State} (law : s.engineLaw) {f : State → State} (acts : s.resetAsserted = false → (f s).engineLaw) :
    (s.live f).engineLaw := by
  rcases s.live_cases f with stands | ⟨released, takes⟩
  · rwa [stands]
  · rw [takes]
    exact acts released

theorem State.EngineKept.live {s : State} (law : s.engineLaw) {f : State → State} (kept : s.EngineKept (f s)) : (s.live f).engineLaw :=
  State.live_law law fun _ => kept.law law

theorem State.sends_law {s : State} (law : s.engineLaw) (h : HostId) (c : Cmd) (x : Byte) (p : List Byte) (o : LaneObs) :
    (s.sends h c x p o).engineLaw :=
  State.onPort_law law h 0 fun released => s.takeFrame_law law released h _ o

theorem engineLaw_of_reset {s : State} (reset : s.resetAsserted = true) : s.engineLaw := by
  refine ⟨fun released => ?_, fun released => ?_⟩
  all_goals
    rw [reset] at released
    cases released

theorem exec_engineLaw (c : Instr) {s t : State} (law : s.engineLaw) (next : exec c s = .next t) : t.engineLaw := by
  have provided {P : Prop} [Decidable P] {u : State} (kept : s.EngineKept u) : (if P then u else s).engineLaw := by
    split
    · exact kept.law law
    · exact law
  cases c with
  | commandFrame v f o => cases next; exact State.onPort_law law _ _ fun released => s.takeFrame_law law released _ f o
  | malformedFrame v bytes => cases next; exact State.onPort_law law _ _ fun _ => provided (s.takeMalformed_engine _ _ _)
  | repeatFrame v f => cases next; exact State.onPort_law law _ _ fun _ => provided (s.sdoZeros_engine _ _)
  | discardedFrame v bytes =>
    cases next
    exact State.onPort_law law _ _ fun _ => provided ((s.discard_engine _).trans (State.sdoZeros_engine _ _ _))
  | responseRead v part =>
    cases next
    refine State.onPort_law law _ _ fun _ => (State.updPort_engine fun pending => ?_).law law
    cases part with
    | marker => exact pending
    | release n =>
      simp only [Port.reads, Port.deliver] at pending
      split at pending <;> exact pending
  | ignoredTransfer v bytes => cases next; exact State.onPort_law law _ _ fun _ => provided (s.sdoZeros_engine _ _)
  | unknownCommand v f =>
    cases next
    refine State.onPort_law law _ _ fun released => ?_
    split
    · exact s.takeFrame_law law released _ f _
    · exact law
  | deviceResetAssert => cases next; exact engineLaw_of_reset rfl
  | deviceResetRelease p =>
    cases next
    split
    · exact engineLaw_afterRelease p _
    · exact law
  | hostResetAssert h => cases next; exact (s.hostResetFalls_engine h).live law
  | hostResetRelease h => cases next; exact (s.hostResetRises_engine h).live law
  | alertInputFall x => cases next; exact State.EngineKept.live law (State.updLane_engine (fun fits => ⟨fits, Iff.rfl⟩) rfl)
  | alertInputRise x => cases next; exact (s.alertRises_engine x).live law
  | foreignLineLow x line => cases next; exact (s.lineLow_engine x line).live law
  | foreignStopSeen x => cases next; exact (s.leaveForeign_engine x).live law
  | idleLimit x since => cases next; exact (s.idleReached_engine x since).live law
  | stuckLimit x line since r =>
    cases next
    exact State.live_law law fun released => (s.stuckReached_engine x line since r (law.1.fits released x)).law law
  | recoveryAttempt x r =>
    cases next
    exact State.live_law law fun released => (s.recoveryNext_engine x r (law.1.fits released x)).law law
  | dispatcherChoice x => cases next; exact (s.choose_engine x).live law
  | attemptSuccess x reads => cases next; exact (s.attemptSucceeds_engine x reads).live law
  | addressNack x k done second low => cases next; exact (s.addressRefused_engine x k done second low).live law
  | writeByteNack x k done acked low => cases next; exact (s.writeRefused_engine x k done acked low).live law
  | arbitrationLoss x p => cases next; exact (s.losesLane_engine x p).live law
  | stretchTimeout x p since => cases next; exact (s.stretches_engine x p since).live law
  | closingStop x ch dh => cases next; exact (s.closes_engine x ch dh).live law
  | leaseExpiry v => cases next; exact (s.leaseExpire_only v).engine.live law
  | waitDeadline h tag => cases next; exact (s.endWork_only h _ _).engine.live law
  | chainWindowExpiry h =>
    cases next
    refine State.EngineKept.live law ?_
    unfold State.windowExpiry
    split
    · split
      · exact (State.updHost_engine id).trans (State.endWork_only _ h _ _).engine
      · exact .refl s
    · exact .refl s
  | alertReadEnd x e => cases next; exact (s.alertReadEnds_engine x e).live law
  | writeBackEnd x e => cases next; exact (s.writeBackEnds_engine x e).live law
  | imageLoadStart since => cases next; exact State.live_law law fun _ => s.imageStarts_law law since
  | imageFieldCheck bytes => cases next; exact State.live_law law fun _ => s.imageField_law law bytes
  | imageAddressNack w => cases next; exact State.live_law law fun _ => s.imageNacked_law law w
  | imageArbLost offsets field => cases next; exact State.live_law law fun _ => s.imageLost_law law offsets field
  | imageStretchTimeout since offsets extra =>
    cases next; exact State.live_law law fun _ => s.imageStretched_law law since offsets extra
  | imageDataStuck since => cases next; exact State.live_law law fun _ => s.imageStuck_law law since
  | imageLoadSuccess => cases next; exact State.live_law law fun released => s.imageSucceeds_law law released
  | imageWaitStopSeen => cases next; exact State.live_law law fun _ => s.imageStopSeen_law law
  | _ => cases next; exact s.sends_law law _ _ _ _ _

/-- Settles O57: every row keeps the law by `exec_engineLaw`, and a microsecond touches no engine. -/
theorem engineLawIsKept : Obligations.EngineLawIsKept := by
  intro s t law next
  unfold step at next
  split at next
  · next c rest _ => exact exec_engineLaw c (s := { s with pending := rest }) law next
  · cases next
    unfold State.tick
    split
    · exact law
    · exact law

end Sys2Proof.Machine
end

section
/-! PROOFS. Queued work that ends without a run (R36, R38, R39, R44), and the settings of RESUME, HOST_CONFIG and LANE_CONFIG. -/

namespace Sys2Proof.Machine

/-! ## Ended work -/

/-- The parts of the pieces that stand around a piece that alone has a property, by their entries. -/
theorem groups_miss {pre post : List SubEntry} {p : SubEntry → Bool} (others : ∀ e ∈ pre ++ post, p e = false) :
    ∀ k ∈ groups pre ++ groups post, k.any p = false := by
  intro k hk
  have inRest : ∀ w ∈ k, w ∈ pre ++ post := fun w hw =>
    List.mem_append.2 ((List.mem_append.1 hk).imp (mem_of_mem_groups · hw) (mem_of_mem_groups · hw))
  simpa using fun w hw => others w (inRest w hw)

/-- A batch of records that joins a Completion Queue, but for the paused marker on its first fault (R46). -/
theorem HostCtx.appendRecords_map {α : Type} (f : Completion → α) (hf : ∀ r b, f { r with pausedMark := b } = f r) (c : HostCtx)
    (recs : List Completion) : (c.appendRecords recs).cq.map f = c.cq.map f ++ recs.map f := by
  rcases c.appendRecords_cq recs with h | h
  · rw [h, List.map_append]
  · rw [h, List.map_append, markFirstFault_map f hf]

/-- What stays in a queue when queued work ends: the work that is not QUEUED as a whole or is not hit. -/
theorem endsGroup_eq_false (hit : List SubEntry → Bool) (g : List SubEntry) :
    (!endsGroup hit g) = (!(g.all fun e => decide (e.state = .queued)) || !hit g) := by
  rw [endsGroup, Bool.not_and]
  rfl

/-- Settles O14: `HostCtx.endWork_whole` gives the queue and the batch, and appending keeps a batch in its order. -/
theorem endedWorkMovesWhole : Obligations.EndedWorkMovesWhole := by
  intro c hit st stamp
  refine ⟨fun pre g post hsq whole fresh queued hg miss => ?_, ?_, groups_flatten c.sq, HostCtx.endWork_credits .., HostCtx.endWork_nq ..⟩
  · rw [HostCtx.endWork_whole st stamp hsq whole fresh queued hg miss]
    refine ⟨HostCtx.appendRecords_sq .., HostCtx.appendRecords_chain .., ?_⟩
    rw [HostCtx.appendRecords_map _ fun _ _ => rfl, List.map_map]
    rfl
  · rw [HostCtx.endWork_sq, funext (endsGroup_eq_false hit)]

/-! ## Deadlines (R35, R38, R39) -/

theorem State.overdue_iff (s : State) (e : SubEntry) :
    s.overdue e = true ↔ ∃ tick, e.deadline = some tick ∧ tick * 1000 ≤ s.elapsed := by
  simp [State.overdue, State.reached, Option.any_eq_true]

theorem exec_waitDeadline_released (h : HostId) (tag : Byte) {s : State} (released : s.resetAsserted = false) :
    exec (.waitDeadline h tag) s = .next (s.waitDeadline h tag) :=
  congrArg Host.Outcome.next (State.live_of_released s _ released)

theorem exec_chainWindowExpiry_released (h : HostId) {s : State} (released : s.resetAsserted = false) :
    exec (.chainWindowExpiry h) s = .next (s.windowExpiry h) :=
  congrArg Host.Outcome.next (State.live_of_released s _ released)

theorem State.windowExpiry_of_reached {s : State} {h : HostId} {ch : OpenChain} (open_ : (s.host h).chain = some ch)
    (reached : ch.deadline * 1000 ≤ s.elapsed) :
    s.windowExpiry h = s.updHost h fun c => HostCtx.endWork { c with chain := none } isOpen (fun _ => .chainAbandoned) s.stamp := by
  have due : s.reached ch.deadline = true := by simpa [State.reached] using reached
  simp only [State.windowExpiry, open_, due, if_true, State.endWork, State.updHost_updHost]
  rfl

/-- Settles O17: of the work of the queue the piece with the tag, and the open chain, alone are hit. -/
theorem deadlinesEndQueuedWork : Obligations.DeadlinesEndQueuedWork := by
  constructor
  · intro s h tag pre g post e tick released hsq whole fresh queued he ht due reached others
    have overdue : s.overdue e = true := (s.overdue_iff e).2 ⟨tick, due, reached⟩
    have hit : g.any (fun e => e.tagged tag && s.overdue e) = true :=
      List.any_eq_true.2 ⟨e, he, by simp [SubEntry.tagged, ht, overdue]⟩
    have miss := groups_miss (pre := pre) (post := post) (p := fun e => e.tagged tag && s.overdue e) fun w hw => by
      simp [SubEntry.tagged, others w hw]
    rw [exec_waitDeadline_released h tag released]
    refine congrArg Host.Outcome.next ((State.updHost_congr ?_ : s.endWork h _ _ = _))
    rw [HostCtx.endWork_whole _ _ hsq whole fresh queued hit miss]
    simp only [State.overdue_iff]
  · intro s h ch pre g released open_ reached hsq whole isopen queued closed
    have miss : ∀ k ∈ groups pre ++ groups [], isOpen k = false := by
      simpa [noOpenChain, groups] using closed
    rw [exec_chainWindowExpiry_released h released, State.windowExpiry_of_reached open_ reached]
    refine congrArg Host.Outcome.next (State.updHost_congr ?_)
    rw [HostCtx.endWork_whole (c := { s.host h with chain := none }) (pre := pre) (g := g) (post := []) _ _
        (by simpa using hsq) whole rfl queued isopen miss,
      HostCtx.appendRecords_of_no_pause (.inr (.inr (by simp [recordWithoutRun, CStatus.isFault])))]
    simp

/-! ## RESUME, HOST_CONFIG, LANE_CONFIG and the attention line (R48, R112, R120, R149, R171) -/

theorem exec_resume_accepted {s s' : State} {h : HostId} {x : Byte} {r : Reply} (ha : s.accepts h .resume x [] = true)
    (hr : resumeCommand h s = (s', r)) : exec (.resume h x) s = .next (s'.answers h .resume x [] r) :=
  congrArg Host.Outcome.next (State.sends_answered ha (congrArg answered hr))

theorem exec_hostConfig_accepted {s s' : State} {h : HostId} {x ce ne sof window : Byte} {r : Reply}
    (ha : s.accepts h .hostConfig x [ce, ne, sof, window] = true) (hr : hostConfig h [ce, ne, sof, window] s = (s', r)) :
    exec (.hostConfig h x ce ne sof window) s = .next (s'.answers h .hostConfig x [ce, ne, sof, window] r) :=
  congrArg Host.Outcome.next (State.sends_answered ha (congrArg answered hr))

theorem exec_laneConfig_accepted {s s' : State} {h : HostId} {x y v enabled : Byte} {r : Reply}
    (ha : s.accepts h .laneConfig x [y, v, enabled] = true) (hr : laneConfig [y, v, enabled] s = (s', r)) :
    exec (.laneConfig h x y v enabled) s = .next (s'.answers h .laneConfig x [y, v, enabled] r) :=
  congrArg Host.Outcome.next (State.sends_answered ha (congrArg answered hr))

theorem parseHostConfig_flags (ce ne sof : Bool) (window : Byte) :
    parseHostConfig [boolByte ce, boolByte ne, boolByte sof, window]
      = if window = 0 then none else some (ce, ne, sof, window.toNat) := by
  simp only [parseHostConfig, boolOfByte_boolByte]

theorem State.attn_iff (s : State) (h : HostId) :
    s.attn h = true ↔ s.resetAsserted = false ∧ (s.host h).attached = true
      ∧ ((s.host h).complEnable = true ∧ (s.host h).cq ≠ [] ∨ (s.host h).noticeEnable = true ∧ (s.host h).nq ≠ []) := by
  simp [State.attn, HostCtx.attn]

/-- Settles O18. -/
theorem settingsAreStored : Obligations.SettingsAreStored := by
  refine ⟨State.attn_iff, fun s h x => ⟨fun ha => exec_resume_accepted ha rfl, fun ce ne sof window ha => ⟨fun nonzero => ?_,
    fun zero => ?_⟩⟩, ?_⟩
  · refine exec_hostConfig_accepted ha ?_
    rw [hostConfig, parseHostConfig_flags, if_neg nonzero]
    simp [byteOf]
  · refine exec_hostConfig_accepted ha ?_
    rw [hostConfig, parseHostConfig_flags, if_pos zero]
    rfl
  · intro s h x y v enabled p ha
    refine exec_laneConfig_accepted ha ?_
    simp only [laneConfig, parseLaneConfig, laneOfByte_laneByte, speedOfByte_speedByte, boolOfByte_boolByte,
      State.updLane_lane_self]
    cases enabled <;> simp [Lane.configured]

end Sys2Proof.Machine
end

section
/-! PROOFS. TABLE_WRITE and TARGET_CONTROL (R13 to R22, R63). -/

namespace Sys2Proof.Machine

/-! ## TABLE_WRITE -/

theorem State.updEntry_congr {s : State} {t : TargetId} {f g : TableEntry → TableEntry} (e : f (s.entry t) = g (s.entry t)) :
    s.updEntry t f = s.updEntry t g := by
  simp [State.updEntry, e]

theorem exec_tableWrite_eq (h : HostId) (x index : Byte) (raw : RawSettings) (undefine : Bool) (s : State) :
    exec (if undefine then .tableWriteUndefine h x index raw else .tableWriteDefine h x index raw) s
      = .next (s.sends h .tableWrite x ([index, boolByte undefine] ++ RawSettings.toBytes raw) quietObs) := by
  cases undefine <;> rfl

theorem exec_tableWrite_accepted {s s' : State} {h : HostId} {x index : Byte} {raw : RawSettings} {undefine : Bool} {r : Reply}
    (ha : s.accepts h .tableWrite x ([index, boolByte undefine] ++ RawSettings.toBytes raw) = true)
    (hr : tableWrite ([index, boolByte undefine] ++ RawSettings.toBytes raw) s = (s', r)) :
    exec (if undefine then .tableWriteUndefine h x index raw else .tableWriteDefine h x index raw) s
      = .next (s'.answers h .tableWrite x ([index, boolByte undefine] ++ RawSettings.toBytes raw) r) := by
  rw [exec_tableWrite_eq]
  exact congrArg Host.Outcome.next (State.sends_answered ha (congrArg answered hr))

theorem parseTableWrite_eq (index : Byte) (undefine : Bool) (raw : RawSettings) :
    parseTableWrite ([index, boolByte undefine] ++ RawSettings.toBytes raw)
      = (targetOfByte index).bind fun t => (RawSettings.check raw).map fun c => (t, undefine, c) := by
  rw [List.cons_append, List.cons_append, List.nil_append, parseTableWrite, boolOfByte_boolByte, RawSettings.ofBytes_toBytes,
    Option.bind_some]
  cases targetOfByte index with
  | none => rfl
  | some t => cases RawSettings.check raw <;> rfl

theorem tableWrite_badField {index : Byte} {raw : RawSettings} (wrong : 48 ≤ index.toNat ∨ RawSettings.check raw = none)
    (undefine : Bool) (s : State) :
    tableWrite ([index, boolByte undefine] ++ RawSettings.toBytes raw) s = (s, ⟨.badField, []⟩) := by
  have unread : parseTableWrite ([index, boolByte undefine] ++ RawSettings.toBytes raw) = none := by
    rw [parseTableWrite_eq]
    rcases wrong with outside | unfit
    · rw [targetOfByte_eq_none outside]
      rfl
    · rw [unfit]
      cases targetOfByte index <;> rfl
  rw [tableWrite, unread]
  rfl

/-- TABLE_WRITE with fields in range: in use, a double, or stored (R14 to R16). -/
theorem tableWrite_eq {raw : RawSettings} {c : Settings} (checked : RawSettings.check raw = some c) (t : TargetId)
    (undefine : Bool) (s : State) :
    tableWrite ([byteOf t.val, boolByte undefine] ++ RawSettings.toBytes raw) s =
      if s.disruptive t undefine c && s.inUse t then (s, ⟨.entryInUse, []⟩)
      else if !undefine && s.duplicateOf t c then (s, ⟨.duplicateAddress, []⟩)
      else (s.writeEntry t undefine c, ⟨.done, (s.writeEntry t undefine c).entryHealth t⟩) := by
  rw [tableWrite, parseTableWrite_eq, targetOfByte_byteOf, checked]
  rfl

theorem State.disruptive_iff (s : State) (t : TargetId) (undefine : Bool) (c : Settings) :
    s.disruptive t undefine c = true ↔ (s.entry t).state ≠ .undefined
      ∧ (undefine = true ∨ c.lane ≠ (s.entry t).cfg.lane ∨ c.address ≠ (s.entry t).cfg.address) := by
  simp [State.disruptive, or_assoc]

theorem State.inUse_iff (s : State) (t : TargetId) : s.inUse t = true ↔
    (∃ k, ∃ w ∈ (s.host k).sq, w.desc.target = t) ∨ (s.entry t).lease.state ≠ .free ∨ (s.entry t).lease.waiters ≠ [] := by
  simp [State.inUse, State.workNames, mem_allHosts, or_assoc]

theorem State.duplicateOf_iff (s : State) (t : TargetId) (c : Settings) : s.duplicateOf t c = true ↔
    ∃ u, u ≠ t ∧ (s.entry u).state ≠ .undefined ∧ (s.entry u).cfg.lane = c.lane ∧ (s.entry u).cfg.address = c.address := by
  simp [State.duplicateOf, mem_allTargets]

theorem TableEntry.written_eq (e : TableEntry) (undefine : Bool) (c : Settings) : e.written undefine c =
    { e with
      cfg := c
      state := if undefine then .undefined else if e.state = .undefined then .online else e.state
      faults := if undefine || decide (e.state = .undefined) then 0 else min e.faults c.threshold } := by
  cases undefine
  · by_cases undefined : e.state = .undefined <;> simp [TableEntry.written, undefined]
  · rfl

theorem State.writeEntry_entry_self (s : State) (t : TargetId) (undefine : Bool) (c : Settings) :
    (s.writeEntry t undefine c).entry t = (s.entry t).written undefine c := by
  rw [State.writeEntry, (State.notifyAll_only _ _ _ _ _).rest.entry, State.updEntry_entry_self]

/-- Settles O26: the checks in their order, and the entry that an accepted write stores. -/
theorem tableWriteStoresTheEntry : Obligations.TableWriteStoresTheEntry := by
  refine ⟨fun s h x index raw undefine => ?_, fun s h x t c undefine => ?_⟩
  · intro p ha wrong
    exact exec_tableWrite_accepted ha (tableWrite_badField wrong undefine s)
  · intro raw p e run disruptive inUse duplicate e' ha inRange
    have row := tableWrite_eq (RawSettings.check_of_inRange inRange) t undefine s
    have refuses : (s.disruptive t undefine c && s.inUse t) = true ↔ disruptive ∧ inUse := by
      rw [Bool.and_eq_true, State.disruptive_iff, State.inUse_iff]
    have doubles : (!undefine && s.duplicateOf t c) = true ↔ duplicate := by
      rw [Bool.and_eq_true, State.duplicateOf_iff, Bool.not_eq_eq_eq_not, Bool.not_true]
    refine ⟨fun disrupts used => ?_, fun free double => ?_, fun free single => ?_⟩
    · exact exec_tableWrite_accepted ha (row.trans (if_pos (refuses.2 ⟨disrupts, used⟩)))
    · refine exec_tableWrite_accepted ha (row.trans ?_)
      rw [if_neg (mt refuses.1 free), if_pos (doubles.2 double)]
    · have stored : (s.entry t).written undefine c = e' := TableEntry.written_eq _ _ _
      have health : (s.writeEntry t undefine c).entryHealth t = [entryStateByte e'.state, byteOf e'.faults] := by
        rw [State.entryHealth, State.writeEntry_entry_self, stored]
      have written : s.writeEntry t undefine c = (s.updEntry t fun _ => e').notifyAll
          (fun g => hostIn e.cfg.subscribers g || hostIn c.subscribers g) .tableChanged (.target t) 0 := by
        rw [State.writeEntry, State.updEntry_congr (g := fun _ => e') stored]
      rw [← written, ← health]
      refine exec_tableWrite_accepted ha (row.trans ?_)
      rw [if_neg (mt refuses.1 free), if_neg (mt doubles.1 single)]

end Sys2Proof.Machine
end

section
/-! PROOFS. TARGET_CONTROL (R19 to R22, R63). -/

namespace Sys2Proof.Machine

/-! ## Queued work that has ended -/

/-- Work that ends where it hits no QUEUED entry ends nothing. -/
theorem HostCtx.endWork_of_clear {c : HostCtx} {p : SubEntry → Bool} (clear : ∀ e ∈ c.sq, e.state = .queued → p e = false)
    (st : SubEntry → CStatus) (now : Stamp) : c.endWork (fun g => g.any p) st now = c := by
  have stays : ∀ g ∈ groups c.sq, endsGroup (fun g => g.any p) g = false := by
    intro g hg
    rw [← Bool.not_eq_true, endsGroup, Bool.and_eq_true, List.all_eq_true, List.any_eq_true]
    rintro ⟨queued, e, he, hit⟩
    have miss := clear e (mem_of_mem_groups hg he) (by simpa [SubEntry.queued] using queued e he)
    rw [hit] at miss
    cases miss
  have ended : (groups c.sq).filter (endsGroup fun g => g.any p) = [] := by simpa [List.filter_eq_nil_iff] using stays
  have kept : (groups c.sq).filter (fun g => !endsGroup (fun g => g.any p) g) = groups c.sq := by
    simpa [List.filter_eq_self] using stays
  simp [HostCtx.endWork, ended, kept, groups_flatten, HostCtx.appendRecords]

/-- In a queue that keeps its form no QUEUED entry that was hit is left (R36, R83). -/
theorem HostCtx.endWork_clears {c : HostCtx} (fits : c.queueFits = true) (p : SubEntry → Bool) (st : SubEntry → CStatus)
    (now : Stamp) : ∀ e ∈ (c.endWork (fun g => g.any p) st now).sq, e.state = .queued → p e = false := by
  intro e he queued
  rw [HostCtx.endWork_sq, List.mem_flatten] at he
  obtain ⟨g, kept, he⟩ := he
  obtain ⟨hg, stays⟩ := List.mem_filter.1 kept
  obtain ⟨gs, o, div⟩ := c.queueFits_iff.1 fits
  rw [div.groups_eq] at hg
  have whole : g.all (·.queued) = true := by
    rcases List.mem_append.1 hg with closed | opened
    · rcases oneState_uniform (div.states g closed) (fun w => decide (w = .queued)) with all | none
      · exact all
      · simpa [queued] using none e he
    · exact (div.opened g (by simpa using opened)).2
  cases hit : p e
  · rfl
  · have ends : endsGroup (fun g => g.any p) g = true := by
      rw [endsGroup, whole, Bool.true_and]
      exact List.any_eq_true.2 ⟨e, he, hit⟩
    rw [ends] at stays
    cases stays

/-! ## OFFLINE ends the lease (R63) -/

/-- A lease record after TARGET_CONTROL OFFLINE; `touched` says of a host that its run touches the target. -/
def Lease.offline (l : Lease) (touched : HostId → Bool) : Lease :=
  { l with
    waiters := []
    state := match l.state with
      | .held g => if touched g then .ending g .offline else .free
      | _ => l.state }

theorem Lease.offline_of_held {l : Lease} {g : HostId} (held : l.state = .held g) (touched : HostId → Bool) :
    l.offline touched = { l with waiters := [], state := if touched g then .ending g .offline else .free } := by
  rw [Lease.offline, held]

theorem Lease.offline_of_not_held {l : Lease} (notHeld : ∀ g, l.state ≠ .held g) (touched : HostId → Bool) :
    l.offline touched = { l with waiters := [] } := by
  unfold Lease.offline
  split
  · next g held => exact absurd held (notHeld g)
  · rfl

/-- Host k once the waiters in the list are told that the lease of t ended OFFLINE: it is told as often as it stands there. -/
def HostCtx.toldOffline (c : HostCtx) (k : HostId) (t : TargetId) (ws : List Waiter) (now : Stamp) : HostCtx :=
  ws.foldl (fun c w => if w.host = k then c.takeNotice .leaseEnded (.target t) 3 now else c) c

theorem HostCtx.toldOffline_sq (c : HostCtx) (k : HostId) (t : TargetId) (ws : List Waiter) (now : Stamp) :
    (c.toldOffline k t ws now).sq = c.sq := by
  unfold HostCtx.toldOffline
  induction ws generalizing c with
  | nil => rfl
  | cons w ws ih =>
    rw [List.foldl_cons, ih]
    split
    · exact HostCtx.takeNotice_sq ..
    · rfl

/-- The waiters are told one after another. -/
def State.tellWaiters (s : State) (t : TargetId) (ws : List Waiter) : State :=
  ws.foldl (fun s w => s.notify w.host .leaseEnded (.target t) (endReasonByte .offline)) s

theorem State.tellWaiters_only (s : State) (t : TargetId) (ws : List Waiter) : s.HostsOnly (s.tellWaiters t ws) :=
  HostsOnly.foldl (fun (u : State) (w : Waiter) => u.notify w.host .leaseEnded (.target t) (endReasonByte .offline))
    (fun u w => u.notify_only w.host _ _ _) ws s

theorem State.tellWaiters_host (s : State) (t : TargetId) (ws : List Waiter) (k : HostId) :
    (s.tellWaiters t ws).host k = (s.host k).toldOffline k t ws s.stamp := by
  unfold State.tellWaiters HostCtx.toldOffline
  induction ws generalizing s with
  | nil => rfl
  | cons w ws ih =>
    rw [List.foldl_cons, List.foldl_cons, ih, State.notify_host, (s.notify_only _ _ _ _).rest.stamp]
    by_cases own : k = w.host
    · rw [if_pos own, if_pos own.symm, own]
      rfl
    · rw [if_neg own, if_neg (Ne.symm own)]

theorem State.leaseOffline_eq (s : State) (t : TargetId) : s.leaseOffline t =
    ((s.updLease t fun l => { l with waiters := [] }).tellWaiters t (s.entry t).lease.waiters).leaseEnd t .offline := rfl

/-- The state in which OFFLINE ends the lease: its wait list is empty and its waiters are told. -/
theorem State.waitersTold_entry (s : State) (t v : TargetId) :
    ((s.updLease t fun l => { l with waiters := [] }).tellWaiters t (s.entry t).lease.waiters).entry v =
      if v = t then { s.entry t with lease := { (s.entry t).lease with waiters := [] } } else s.entry v := by
  rw [(State.tellWaiters_only _ _ _).rest.entry, State.updLease_entry]

theorem State.waitersTold_only (s : State) (t : TargetId) :
    s.TablesOnly ((s.updLease t fun l => { l with waiters := [] }).tellWaiters t (s.entry t).lease.waiters) :=
  (s.updLease_only t _).trans (State.tellWaiters_only _ _ _).tables

theorem Lease.grants_nobody {l : Lease} (empty : l.waiters = []) (blocked : HostId → Bool) :
    ∀ w ws, ¬l.grants blocked w ws := by
  intro w ws granted
  have := granted.2.1
  rw [empty] at this
  cases this

theorem State.leaseOffline_entry (s : State) (t v : TargetId) : (s.leaseOffline t).entry v =
    if v = t then { s.entry t with lease := (s.entry t).lease.offline (s.touchedBy t) } else s.entry v := by
  have told := s.waitersTold_entry t
  have self := (told t).trans (if_pos rfl)
  rw [State.leaseOffline_eq]
  by_cases held : ∃ g, (s.entry t).lease.state = .held g
  · obtain ⟨g, held⟩ := held
    rw [State.leaseEnd_entry (by rw [self]; exact held), self, told v, (s.waitersTold_only t).touchedBy,
      Lease.checked_of_none (Lease.grants_nobody rfl _), Lease.offline_of_held held]
    split
    · split <;> rfl
    · rfl
  · have notHeld : ∀ g, (s.entry t).lease.state ≠ .held g := fun g h => held ⟨g, h⟩
    rw [State.leaseEnd_of_not_held (by rw [self]; exact notHeld), told v, Lease.offline_of_not_held notHeld]

/-- Host k after OFFLINE has ended the lease, where no QUEUED work names the target any more. -/
theorem State.leaseOffline_host {s : State} {t : TargetId} (k : HostId)
    (clear : ∀ e ∈ (s.host k).sq, e.state = .queued → e.desc.target ≠ t) : (s.leaseOffline t).host k =
      if (s.entry t).lease.state = .held k ∧ s.touchedBy t k = false then
        ((s.host k).toldOffline k t (s.entry t).lease.waiters s.stamp).takeNotice .leaseEnded (.target t) 3 s.stamp
      else (s.host k).toldOffline k t (s.entry t).lease.waiters s.stamp := by
  have self := (s.waitersTold_entry t t).trans (if_pos rfl)
  have only := s.waitersTold_only t
  have host (g : HostId) := State.tellWaiters_host (s.updLease t fun l => { l with waiters := [] }) t (s.entry t).lease.waiters g
  rw [(s.updLease_only t _).rest.stamp] at host
  rw [State.leaseOffline_eq]
  by_cases held : ∃ g, (s.entry t).lease.state = .held g
  · obtain ⟨g, held⟩ := held
    have held' := (congrArg (fun e : TableEntry => e.lease.state) self).trans held
    cases touched : s.touchedBy t g
    · rw [State.leaseEnd_of_untouched held' ((only.touchedBy t g).trans touched), State.leaseFinish_host, self,
        Lease.checked_of_none (Lease.grants_nobody rfl _), HostCtx.toldGrant_same, only.rest.stamp, host, host]
      by_cases own : k = g
      · subst own
        rw [if_pos rfl, if_pos ⟨held, touched⟩, HostCtx.leaseFreed, if_neg (by decide),
          HostCtx.endWork_of_clear]
        · rfl
        · intro e he queued
          have := clear e (by rwa [HostCtx.toldOffline_sq] at he) queued
          simp [leaseWork, this]
      · rw [if_neg own, if_neg fun both => own (LeaseState.held.inj (both.1.symm.trans held))]
        rfl
    · rw [State.leaseEnd_of_touched held' ((only.touchedBy t g).trans touched), State.updLease_host, host, if_neg]
      · rfl
      · rintro ⟨own, free⟩
        rw [LeaseState.held.inj (held.symm.trans own), free] at touched
        cases touched
  · have notHeld : ∀ g, (s.entry t).lease.state ≠ .held g := fun g h => held ⟨g, h⟩
    rw [State.leaseEnd_of_not_held (by rw [self]; exact notHeld), host, if_neg fun both => notHeld k both.1]
    rfl

/-! ## The three actions (R20 to R22) -/

theorem State.controlOnline_entry (s : State) (t v : TargetId) : (s.controlOnline t).entry v =
    if v = t then { s.entry t with state := .online, faults := 0 } else s.entry v := by
  rw [← State.updEntry_entry s t v fun e => { e with state := .online, faults := 0 }]
  unfold State.controlOnline
  dsimp only
  split
  · rw [(State.tellSubscribers_only _ _ _ _).rest.entry]
  · rw [(State.tellSubscribers_only _ _ _ _).rest.entry]
  · rfl
  · rfl

theorem State.controlOnline_host (s : State) (t : TargetId) (k : HostId) : (s.controlOnline t).host k =
    if hostIn (s.entry t).cfg.subscribers k ∧ (s.entry t).state = .quarantined then
      (s.host k).takeNotice .restored (.target t) 0 s.stamp
    else if hostIn (s.entry t).cfg.subscribers k ∧ (s.entry t).state = .offline then
      (s.host k).takeNotice .tableChanged (.target t) 0 s.stamp
    else s.host k := by
  unfold State.controlOnline
  dsimp only
  split
  · next quarantined =>
    rw [State.tellSubscribers_host, State.updEntry_entry_self]
    simp only [quarantined, and_true, reduceCtorEq, and_false, if_false]
    rfl
  · next offline =>
    rw [State.tellSubscribers_host, State.updEntry_entry_self]
    simp only [offline, and_true, reduceCtorEq, and_false, if_false]
    rfl
  · next online =>
    simp only [online, reduceCtorEq, and_false, if_false]
    rfl
  · next undefined =>
    simp only [undefined, reduceCtorEq, and_false, if_false]
    rfl

theorem State.controlQuarantine_entry (s : State) (t v : TargetId) : (s.controlQuarantine t).entry v =
    if v = t then { s.entry t with state := .quarantined } else s.entry v := by
  unfold State.controlQuarantine
  split
  · next quarantined =>
    split
    · next same => rw [same, ← quarantined]
    · rfl
  · exact s.quarantine_entry t v

theorem State.controlQuarantine_host (s : State) (t : TargetId) (k : HostId) : (s.controlQuarantine t).host k =
    if (s.entry t).state = .quarantined then s.host k else s.hostAfterQuarantine t k := by
  unfold State.controlQuarantine
  split
  · rfl
  · exact s.quarantine_host t k

/-- Quarantine ends every QUEUED piece of work to the target that is not PROBE (R9). -/
theorem State.hostAfterQuarantine_clears {s : State} {k : HostId} (fits : (s.host k).queueFits = true) (t : TargetId) :
    ∀ e ∈ (s.hostAfterQuarantine t k).sq, e.state = .queued → e.desc.target = t → e.desc.kind = .probe := by
  intro e he queued same
  have told : (if hostIn (s.entry t).cfg.subscribers k then (s.host k).takeNotice .quarantined (.target t) 0 s.stamp
      else s.host k).queueFits = true := by
    split
    · exact (HostMove.notice (s.host k) _ _ _ _).queueFits fits
    · exact fits
  have miss := HostCtx.endWork_clears told _ _ _ e he queued
  simpa [same] using miss

/-- Host k once OFFLINE has ended its QUEUED work to the target (R22). -/
def HostCtx.endedOffline (c : HostCtx) (t : TargetId) (now : Stamp) : HostCtx :=
  c.endWork (fun w => w.any fun i => decide (i.desc.target = t))
    (fun i => if i.desc.target = t then .targetOffline else .chainBroken) now

theorem HostCtx.endedOffline_clears {c : HostCtx} (fits : c.queueFits = true) (t : TargetId) (now : Stamp) :
    ∀ e ∈ (c.endedOffline t now).sq, e.state = .queued → e.desc.target ≠ t := by
  intro e he queued
  simpa using HostCtx.endWork_clears fits _ _ _ e he queued

/-- The state in which OFFLINE ends the lease: the entry is OFFLINE and the QUEUED work to it has ended. -/
def State.putOffline (s : State) (t : TargetId) : State :=
  (s.updEntry t fun e => { e with state := .offline }).endWorkAll (fun g => g.any fun e => decide (e.desc.target = t))
    (endedBy t .targetOffline)

theorem State.putOffline_only (s : State) (t : TargetId) : s.TablesOnly (s.putOffline t) :=
  (s.updEntry_only t _).trans (State.endWorkAll_only _ _ _).tables

theorem State.putOffline_entry (s : State) (t v : TargetId) :
    (s.putOffline t).entry v = if v = t then { s.entry t with state := .offline } else s.entry v := by
  rw [State.putOffline, (State.endWorkAll_only _ _ _).rest.entry, State.updEntry_entry]

theorem State.putOffline_host (s : State) (t : TargetId) (k : HostId) :
    (s.putOffline t).host k = (s.host k).endedOffline t s.stamp := by
  rw [State.putOffline, State.endWorkAll_host]
  rfl

theorem State.controlOffline_of_offline {s : State} {t : TargetId} (offline : (s.entry t).state = .offline) :
    s.controlOffline t = s := if_pos offline

theorem State.controlOffline_of_other {s : State} {t : TargetId} (other : (s.entry t).state ≠ .offline) :
    s.controlOffline t = ((s.putOffline t).leaseOffline t).tellSubscribers t .tableChanged 0 := if_neg other

theorem State.controlOffline_entry {s : State} {t : TargetId} (other : (s.entry t).state ≠ .offline) (v : TargetId) :
    (s.controlOffline t).entry v =
      if v = t then { s.entry t with state := .offline, lease := (s.entry t).lease.offline (s.touchedBy t) } else s.entry v := by
  rw [State.controlOffline_of_other other, (State.tellSubscribers_only _ _ _ _).rest.entry, State.leaseOffline_entry,
    State.putOffline_entry, State.putOffline_entry, if_pos rfl, funext ((s.putOffline_only t).touchedBy t)]
  split <;> rfl

theorem State.controlOffline_host {s : State} {t : TargetId} (other : (s.entry t).state ≠ .offline) {k : HostId}
    (fits : (s.host k).queueFits = true) : (s.controlOffline t).host k =
      let left := ((s.host k).endedOffline t s.stamp).toldOffline k t (s.entry t).lease.waiters s.stamp
      let freed := if (s.entry t).lease.state = .held k ∧ s.touchedBy t k = false then
        left.takeNotice .leaseEnded (.target t) 3 s.stamp else left
      if hostIn (s.entry t).cfg.subscribers k then freed.takeNotice .tableChanged (.target t) 0 s.stamp else freed := by
  have clear := HostCtx.endedOffline_clears fits t s.stamp
  rw [State.controlOffline_of_other other, State.tellSubscribers_host, State.leaseOffline_entry, if_pos rfl,
    State.leaseOffline_host k (by rw [State.putOffline_host]; exact clear), State.putOffline_host, State.putOffline_entry,
    if_pos rfl, (s.putOffline_only t).touchedBy, (State.leaseOffline_only _ t).rest.stamp, (s.putOffline_only t).rest.stamp]

theorem State.controlOffline_sq {s : State} {t : TargetId} (other : (s.entry t).state ≠ .offline) {k : HostId}
    (fits : (s.host k).queueFits = true) : ((s.controlOffline t).host k).sq = ((s.host k).endedOffline t s.stamp).sq := by
  have told (p : Prop) [Decidable p] (c : HostCtx) (kind : NoticeKind) (d : Byte) :
      (if p then c.takeNotice kind (.target t) d s.stamp else c).sq = c.sq := by
    split
    · exact HostCtx.takeNotice_sq ..
    · rfl
  rw [State.controlOffline_host other fits, told, told, HostCtx.toldOffline_sq]

/-! ## The command (R19) -/

/-- The row of a TARGET_CONTROL action is a frame with the action's byte. -/
theorem exec_targetControl_row {h : HostId} {x index action : Byte} {c : Instr}
    (row : action = 0 ∧ c = .targetControlOnline h x index ∨ action = 1 ∧ c = .targetControlOffline h x index
      ∨ action = 2 ∧ c = .targetControlQuarantine h x index) (s : State) :
    exec c s = .next (s.sends h .targetControl x [index, action] quietObs) := by
  rcases row with ⟨rfl, rfl⟩ | ⟨rfl, rfl⟩ | ⟨rfl, rfl⟩ <;> rfl

theorem State.sends_targetControl {s s' : State} {h : HostId} {x index action : Byte} {r : Reply}
    (ha : s.accepts h .targetControl x [index, action] = true) (hr : targetControl [index, action] s = (s', r)) (o : LaneObs) :
    s.sends h .targetControl x [index, action] o = s'.answers h .targetControl x [index, action] r :=
  State.sends_answered ha (congrArg answered hr)

theorem targetControl_undefined_action {action : Byte} (above : 2 < action.toNat) (index : Byte) (s : State) :
    targetControl [index, action] s = (s, ⟨.badField, []⟩) := by
  have not0 : action ≠ 0 := by rintro rfl; simp at above
  have not1 : action ≠ 1 := by rintro rfl; simp at above
  have not2 : action ≠ 2 := by rintro rfl; simp at above
  have unread : parseTargetControl [index, action] = none := by
    rw [parseTargetControl]
    cases targetOfByte index with
    | none => rfl
    | some t => exact ((if_neg not0).trans (if_neg not1)).trans (if_neg not2)
  rw [targetControl, unread]
  rfl

theorem targetControl_outside {index : Byte} (outside : 48 ≤ index.toNat) (action : Byte) (s : State) :
    targetControl [index, action] s = (s, ⟨.badField, []⟩) := by
  rw [targetControl, parseTargetControl, targetOfByte_eq_none outside]
  rfl

theorem parseTargetControl_byteOf (t : TargetId) (action : Byte) : parseTargetControl [byteOf t.val, action] =
    if action = 0 then some (t, .online) else if action = 1 then some (t, .offline)
    else if action = 2 then some (t, .quarantine) else none := by
  rw [parseTargetControl, targetOfByte_byteOf]

theorem targetControl_undefined {t : TargetId} {action : Byte} (known : action = 0 ∨ action = 1 ∨ action = 2) {s : State}
    (undefined : (s.entry t).state = .undefined) : targetControl [byteOf t.val, action] s = (s, ⟨.badEntry, []⟩) := by
  rw [targetControl, parseTargetControl_byteOf]
  rcases known with rfl | rfl | rfl <;> exact if_pos undefined

theorem targetControl_online {t : TargetId} {s : State} (defined : (s.entry t).state ≠ .undefined) :
    targetControl [byteOf t.val, 0] s = (s.controlOnline t, ⟨.done, (s.controlOnline t).entryHealth t⟩) := by
  rw [targetControl, parseTargetControl_byteOf]
  exact if_neg defined

theorem targetControl_offline {t : TargetId} {s : State} (defined : (s.entry t).state ≠ .undefined) :
    targetControl [byteOf t.val, 1] s = (s.controlOffline t, ⟨.done, (s.controlOffline t).entryHealth t⟩) := by
  rw [targetControl, parseTargetControl_byteOf]
  exact if_neg defined

theorem targetControl_quarantine {t : TargetId} {s : State} (defined : (s.entry t).state ≠ .undefined) :
    targetControl [byteOf t.val, 2] s = (s.controlQuarantine t, ⟨.done, (s.controlQuarantine t).entryHealth t⟩) := by
  rw [targetControl, parseTargetControl_byteOf]
  exact if_neg defined

/-- What every action of TARGET_CONTROL keeps, and its answer (R19). -/
theorem State.TablesOnly.answered_frame {s s' : State} (only : s.TablesOnly s') {t : TargetId}
    (others : ∀ v, v ≠ t → s'.entry v = s.entry v) (cfg : (s'.entry t).cfg = (s.entry t).cfg) (h : HostId) (c : Cmd) (x : Byte)
    (p : List Byte) :
    let u := s'.answers h c x p ⟨.done, s'.entryHealth t⟩
    (∀ v, v ≠ t → u.entry v = s.entry v) ∧ (u.entry t).cfg = (s.entry t).cfg
      ∧ u.laneA = s.laneA ∧ u.laneB = s.laneB ∧ u.trace = s.trace ∧ (∀ g, (u.host g).credits = (s.host g).credits)
      ∧ (u.host h).port = (s.host h).port.answered (commandFrameOf c x p)
          ⟨.done, [entryStateByte (u.entry t).state, byteOf (u.entry t).faults]⟩
      ∧ ∀ g, g ≠ h → (u.host g).port = (s.host g).port := by
  refine ⟨others, cfg, only.rest.laneA, only.rest.laneB, only.rest.trace, fun g => ?_, ?_, fun g other => ?_⟩
  · have kept : (s'.host g).credits = (s.host g).credits :=
      only.keeps _ (hostLaw_fixed (·.credits) _ (by simp) (by simp)) g rfl
    rw [← kept, State.answers_host]
    split
    · next same => rw [same]
    · rfl
  · rw [State.answers_port_self, only.port]
    rfl
  · rw [State.answers_port_ne _ other, only.port]

/-- But for its port a host is as TARGET_CONTROL has left it. -/
theorem State.TablesOnly.answered_host {s s' : State} (only : s.TablesOnly s') (h : HostId) (c : Cmd) (x : Byte) (p : List Byte)
    (r : Reply) (k : HostId) : { (s'.answers h c x p r).host k with port := (s.host k).port } = s'.host k := by
  rw [State.answers_withPort, ← only.port]

theorem State.answers_sq (s : State) (h : HostId) (c : Cmd) (x : Byte) (p : List Byte) (r : Reply) (g : HostId) :
    ((s.answers h c x p r).host g).sq = (s.host g).sq := by
  rw [State.answers_host]
  split
  · next same => rw [same]
  · rfl

/-- Settles O27: what each action does to the entry, its lease and every host. -/
theorem targetControlSetsTheState : Obligations.TargetControlSetsTheState := by
  constructor
  · intro s h x index action ha refused
    refine ⟨fun o above => ?_, fun c row => ⟨fun outside => ?_, ?_⟩⟩
    · exact congrArg Host.Outcome.next (State.sends_targetControl ha (targetControl_undefined_action above index s) o)
    · exact (exec_targetControl_row row s).trans
        (congrArg Host.Outcome.next (State.sends_targetControl ha (targetControl_outside outside action s) _))
    · rintro t rfl undefined
      have known : action = 0 ∨ action = 1 ∨ action = 2 := by
        rcases row with ⟨a, _⟩ | ⟨a, _⟩ | ⟨a, _⟩ <;> simp [a]
      exact (exec_targetControl_row row s).trans
        (congrArg Host.Outcome.next (State.sends_targetControl ha (targetControl_undefined known undefined) _))
  · intro s h x t defined law e subscribed frame hosts
    refine ⟨fun ha => ?_, fun ha => ?_, fun ha => ?_⟩
    · have only := s.controlOnline_only t
      have entry := s.controlOnline_entry t
      have self := (entry t).trans (if_pos rfl)
      have cfg : ((s.controlOnline t).entry t).cfg = e.cfg := by rw [self]
      have state : ((s.controlOnline t).entry t).state = .online := by rw [self]
      have faults : ((s.controlOnline t).entry t).faults = 0 := by rw [self]
      have lease : ((s.controlOnline t).entry t).lease = e.lease := by rw [self]
      refine ⟨_, congrArg Host.Outcome.next (State.sends_targetControl ha (targetControl_online defined) _),
        only.answered_frame (fun v other => (entry v).trans (if_neg other)) cfg h .targetControl x _, state, faults, lease,
        fun k => ?_⟩
      rw [only.answered_host, State.controlOnline_host]
    · have only := s.controlQuarantine_only t
      have entry := s.controlQuarantine_entry t
      have self := (entry t).trans (if_pos rfl)
      have cfg : ((s.controlQuarantine t).entry t).cfg = e.cfg := by rw [self]
      have state : ((s.controlQuarantine t).entry t).state = .quarantined := by rw [self]
      have faults : ((s.controlQuarantine t).entry t).faults = e.faults := by rw [self]
      have lease : ((s.controlQuarantine t).entry t).lease = e.lease := by rw [self]
      refine ⟨_, congrArg Host.Outcome.next (State.sends_targetControl ha (targetControl_quarantine defined) _),
        only.answered_frame (fun v other => (entry v).trans (if_neg other)) cfg h .targetControl x _, state, faults, lease,
        fun other g => ?_, fun k => ?_⟩
      · rw [State.answers_sq, State.controlQuarantine_host, if_neg other]
        exact State.hostAfterQuarantine_clears (law g) t
      · rw [only.answered_host, State.controlQuarantine_host]
    · have only := s.controlOffline_only t
      by_cases offline : (s.entry t).state = .offline
      · have same := State.controlOffline_of_offline offline
        have entry (v : TargetId) : (s.controlOffline t).entry v = s.entry v := by rw [same]
        have state : ((s.controlOffline t).entry t).state = .offline := by rw [same, offline]
        have faults : ((s.controlOffline t).entry t).faults = e.faults := by rw [same]
        refine ⟨_, congrArg Host.Outcome.next (State.sends_targetControl ha (targetControl_offline defined) _),
          only.answered_frame (fun v _ => entry v) (by rw [same]) h .targetControl x _, state, faults,
          fun _ => ⟨entry t, fun k => ?_⟩, fun other => absurd offline other⟩
        rw [only.answered_host, same]
      · have entry := State.controlOffline_entry offline
        have self := (entry t).trans (if_pos rfl)
        have cfg : ((s.controlOffline t).entry t).cfg = e.cfg := by rw [self]
        have state : ((s.controlOffline t).entry t).state = .offline := by rw [self]
        have faults : ((s.controlOffline t).entry t).faults = e.faults := by rw [self]
        have lease : ((s.controlOffline t).entry t).lease = e.lease.offline (s.touchedBy t) := by rw [self]
        have expiry : ((s.controlOffline t).entry t).lease.expiry = e.lease.expiry := by
          rw [lease]
          rfl
        refine ⟨_, congrArg Host.Outcome.next (State.sends_targetControl ha (targetControl_offline defined) _),
          only.answered_frame (fun v other => (entry v).trans (if_neg other)) cfg h .targetControl x _, state, faults,
          fun same => absurd same offline,
          fun _ => ⟨congrArg Lease.waiters lease, expiry, fun g held => ?_, fun notHeld => ?_, fun g => ?_,
            fun k => ?_⟩⟩
        · exact congrArg Lease.state (lease.trans (Lease.offline_of_held held _))
        · exact (congrArg Lease.state lease).trans (by rw [Lease.offline_of_not_held notHeld])
        · rw [State.answers_sq, State.controlOffline_sq offline (law g)]
          exact HostCtx.endedOffline_clears (law g) t s.stamp
        · rw [only.answered_host, State.controlOffline_host offline (law k)]
          rfl

end Sys2Proof.Machine
end

section
/-! PROOFS. The commands that report and change nothing, and the bytes they answer (R12, R113, R165, R172, R190). -/

namespace Sys2Proof.Machine

/-! ## Their rows -/

theorem exec_tableRead_accepted {s s' : State} {h : HostId} {x index : Byte} {r : Reply}
    (ha : s.accepts h .tableRead x [index] = true) (hr : tableRead [index] s = (s', r)) :
    exec (.tableRead h x index) s = .next (s'.answers h .tableRead x [index] r) :=
  congrArg Host.Outcome.next (State.sends_answered ha (congrArg answered hr))

theorem exec_laneStatus_accepted {s s' : State} {h : HostId} {x lane : Byte} {o : LaneObs} {r : Reply}
    (ha : s.accepts h .laneStatus x [lane] = true) (hr : laneStatus [lane] o s = (s', r)) :
    exec (.laneStatus h x lane o) s = .next (s'.answers h .laneStatus x [lane] r) :=
  congrArg Host.Outcome.next (State.sends_answered ha (congrArg answered hr))

theorem exec_hostStatus_accepted {s s' : State} {h : HostId} {x host : Byte} {r : Reply}
    (ha : s.accepts h .hostStatus x [host] = true) (hr : hostStatus h [host] s = (s', r)) :
    exec (.hostStatus h x host) s = .next (s'.answers h .hostStatus x [host] r) :=
  congrArg Host.Outcome.next (State.sends_answered ha (congrArg answered hr))

theorem exec_traceRead_accepted {s s' : State} {h : HostId} {x : Byte} {index : BitVec 16} {r : Reply}
    (ha : s.accepts h .traceRead x (be16 index) = true) (hr : traceRead (be16 index) s = (s', r)) :
    exec (.traceRead h x index) s = .next (s'.answers h .traceRead x (be16 index) r) :=
  congrArg Host.Outcome.next (State.sends_answered ha (congrArg answered hr))

theorem exec_deviceInfo_accepted {s s' : State} {h : HostId} {x : Byte} {r : Reply}
    (ha : s.accepts h .deviceInfo x [] = true) (hr : deviceInfo h s = (s', r)) :
    exec (.deviceInfo h x) s = .next (s'.answers h .deviceInfo x [] r) :=
  congrArg Host.Outcome.next (State.sends_answered ha (congrArg answered hr))

/-! ## Small fields -/

theorem hostByte_eq (o : Option HostId) : hostByte o = (o.map fun g => byteOf g.val).getD 0xFF := by cases o <;> rfl

/-- Two flags in the bits 0 and 1 of a byte. -/
theorem twoFlags (a b : Bool) : boolByte a ||| (boolByte b <<< 1) = (if a then 1 else 0) ||| (if b then 2 else 0) := by
  cases a <;> cases b <;> decide

/-- Three flags in the bits 0 to 2 of a byte. -/
theorem threeFlags (a b c : Bool) : boolByte a ||| (boolByte b <<< 1) ||| (boolByte c <<< 2)
    = (if a then 1 else 0) ||| (if b then 2 else 0) ||| (if c then 4 else 0) := by
  cases a <;> cases b <;> cases c <;> decide

/-- The first three of a list, with a value in the places it does not reach. -/
theorem take_three_getD (bs : List Byte) (d : Byte) :
    (bs ++ List.replicate 3 d).take 3 = [bs.getD 0 d, bs.getD 1 d, bs.getD 2 d] := by
  match bs with
  | [] => rfl
  | [a] => rfl
  | [a, b] => rfl
  | a :: b :: c :: rest => rfl

theorem waiterBytes_eq (ws : List Waiter) (bs : List Byte) (hb : bs = ws.map fun w => byteOf w.host.val) :
    waiterBytes ws = [bs.getD 0 0xFF, bs.getD 1 0xFF, bs.getD 2 0xFF] := by
  subst hb
  exact take_three_getD _ _

theorem State.leaseMsLeft_eq (s : State) (l : Lease) :
    s.leaseMsLeft l = if l.state = .free then 0 else msLeft (l.expiry * 1000 - s.elapsed) := by
  unfold State.leaseMsLeft
  cases state : l.state <;> simp [State.msUntil]

/-! ## TABLE_READ and LANE_STATUS (R12, R113) -/

theorem State.leaseSummary_eq (s : State) (t : TargetId) :
    let l := (s.entry t).lease
    let waits : List Byte := l.waiters.map fun w => byteOf w.host.val
    s.leaseSummary t = [leaseStateByte l.state, (l.state.holder.map fun g => byteOf g.val).getD 0xFF]
      ++ be16 (BitVec.ofNat 16 (if l.state = .free then 0 else msLeft (l.expiry * 1000 - s.elapsed)))
      ++ [byteOf l.waiters.length, waits.getD 0 0xFF, waits.getD 1 0xFF, waits.getD 2 0xFF] := by
  intro l waits
  rw [State.leaseSummary, State.leaseMsLeft_eq, hostByte_eq, waiterBytes_eq _ waits rfl, List.append_assoc]
  rfl

theorem tableRead_byteOf (t : TargetId) (s : State) : tableRead [byteOf t.val] s = (s, ⟨.done, s.tableReadBytes t⟩) := by
  rw [tableRead, parseIndex_byteOf]

theorem tableRead_outside {index : Byte} (outside : 48 ≤ index.toNat) (s : State) :
    tableRead [index] s = (s, ⟨.badField, []⟩) := by
  rw [tableRead, parseIndex_badField outside]
  rfl

theorem laneStatus_laneByte (y : LaneId) (o : LaneObs) (s : State) :
    laneStatus [laneByte y] o s = (s, ⟨.done, s.laneStatusBytes y o.clockHigh o.dataHigh⟩) := by
  simp [laneStatus, parseLane, oneByte, laneOfByte_laneByte]

theorem State.laneStatusBytes_eq (s : State) (y : LaneId) (clockHigh dataHigh : Bool) :
    let l := s.lane y
    let first : Option SubEntry := l.run.bind fun r => ((s.host r.host).runningOn y).head?
    s.laneStatusBytes y clockHigh dataHigh =
      [laneByte y, laneModeByte l.mode,
        (if l.mode = .running ∧ l.closing = true then 1 else 0) ||| (if l.mode = .recovery ∧ l.restart.isSome then 2 else 0),
        speedByte l.speed, boolByte l.alertEnabled, boolByte l.masked,
        (if l.alertLow then 0 else 1) ||| (if clockHigh then 2 else 0) ||| (if dataHigh then 4 else 0),
        boolByte l.run.isSome, (l.run.map fun r => byteOf r.host.val).getD 0xFF, (first.map fun e => e.desc.tag).getD 0,
        (l.run.map fun r => byteOf r.attempt).getD Config.noRunAttempt, (l.recovery.map fun r => byteOf r.attempts).getD 0,
        (l.lastGranted.map fun g => byteOf g.val).getD 0xFF, boolByte l.grantOwed] := by
  dsimp only
  have number : byteOf (s.lane y).recoveryNumber = ((s.lane y).recovery.map fun r => byteOf r.attempts).getD 0 := by
    unfold Lane.recoveryNumber
    cases (s.lane y).recovery <;> rfl
  have low : (if (!(s.lane y).alertLow) = true then (1 : Byte) else 0) = if (s.lane y).alertLow then 0 else 1 := by
    cases (s.lane y).alertLow <;> rfl
  rw [State.laneStatusBytes, twoFlags, threeFlags, hostByte_eq, hostByte_eq, number, low]
  simp only [Bool.and_eq_true, decide_eq_true_eq]
  cases (s.lane y).run <;> rfl

/-! ## HOST_STATUS, TRACE_READ and DEVICE_INFO (R165, R172, R190) -/

theorem hostStatus_byteOf (h g : HostId) (s : State) : hostStatus h [byteOf g.val] s =
    if g ≠ h ∧ (s.host h).rights.admin = false then (s, ⟨.noRight, []⟩) else (s, ⟨.done, s.hostStatusBytes g⟩) := by
  simp [hostStatus, oneByte, hostOfByte_byteOf, plain]

theorem State.chainBytes_eq (s : State) (o : Option OpenChain) : s.chainBytes o =
    match o with
    | none => [0, Config.noChainCount, Config.noChainLane, Config.noChainMsLeft]
    | some ch =>
      let left := msLeft (ch.deadline * 1000 - s.elapsed)
      [1, byteOf ch.count, laneByte ch.lane, if left ≤ 255 then byteOf left else Config.windowOver] := by
  cases o <;> rfl

theorem State.hostStatusBytes_eq (s : State) (g : HostId) :
    let c := s.host g
    let r := c.rights
    s.hostStatusBytes g =
      [byteOf g.val, boolByte c.attached,
        (if r.admin then 1 else 0) ||| (if r.lease then 2 else 0) ||| (if r.trace then 4 else 0), byteOf r.cap,
        r.lanes.setWidth 8, byteOf c.credits, byteOf (c.sq.filter fun e => decide (e.state = .queued)).length,
        byteOf ((c.sq.filter fun e => decide (e.state ≠ .queued)).length - c.discardedRunning), byteOf c.discardedRunning,
        byteOf c.cq.length, byteOf c.nq.length, boolByte c.complEnable, boolByte c.noticeEnable, boolByte c.stopOnFault,
        byteOf c.window, boolByte c.paused]
      ++ (match c.chain with
          | none => [0, Config.noChainCount, Config.noChainLane, Config.noChainMsLeft]
          | some ch =>
            let left := msLeft (ch.deadline * 1000 - s.elapsed)
            [1, byteOf ch.count, laneByte ch.lane, if left ≤ 255 then byteOf left else Config.windowOver])
      ++ [boolByte c.presentedTag.isSome, c.presentedTag.getD 0, boolByte c.presentedNotice, boolByte c.overflow,
        boolByte c.overflowSeen, if s.attn g then 0 else 1, if s.trace.claimant = some g then 1 else 0] := by
  intro c r
  have released : boolByte (!s.attn g) = if s.attn g then 0 else 1 := by cases s.attn g <;> rfl
  have claims : boolByte (decide (s.trace.claimant = some g)) = if s.trace.claimant = some g then 1 else 0 := by
    simp [boolByte]
  have running : c.runningCount = (c.sq.filter fun e => decide (e.state ≠ .queued)).length - c.discardedRunning := by
    simp [HostCtx.runningCount, SubEntry.queued]
  rw [State.hostStatusBytes, rightsByte, threeFlags, running, State.chainBytes_eq, released, claims]
  cases c.chain <;> rfl

theorem be16_index (i : Fin 256) : be16 (BitVec.ofNat 16 i.val) = [0, byteOf i.val] := by
  have spelled : i.val = ofBe16 0 (byteOf i.val) := by
    rw [ofBe16, toNat_byteOf (by omega)]
    simp
  conv_lhs => rw [spelled]
  exact be16_ofBe16 _ _

theorem traceRead_index (i : Fin 256) (s : State) : traceRead (be16 (BitVec.ofNat 16 i.val)) s =
    (s, ⟨.done, [0, byteOf i.val] ++ traceRecordBytes s.trace.ring[i] ++ s.trace.summary⟩) := by
  have back : (byteOf i.val).toNat = i.val := toNat_byteOf (by omega)
  rw [be16_index, traceRead, parseTraceRead, if_pos rfl]
  simp only [back]
  rfl

theorem traceRecordBytes_eq (o : Option TraceRecord) : traceRecordBytes o =
    match o with
    | none => [0, 0, 0, 0, 0xFF, 0, 0xFF] ++ List.replicate 16 0
    | some r => be16 r.seq ++ [if r.tag.isSome then 3 else 1, runTypeByte r.runType,
        (r.host.map fun g => byteOf g.val).getD 0xFF, r.tag.getD 0, (r.target.map fun v => byteOf v.val).getD 0xFF,
        laneByte r.lane, kindByte r.kind, markByte r.mark, r.status.code, byteOf r.attempts, byteOf r.bytesOut,
        byteOf r.bytesIn] ++ be32 r.start ++ be32 r.stop ++ [0] := by
  cases o with
  | none => rfl
  | some r =>
    have markers (b : Bool) : ((0b01 : Nat) : Byte) ||| (boolByte b <<< 1) = if b then 3 else 1 := by cases b <;> decide
    simp only [traceRecordBytes, markers, hostByte_eq]

theorem Trace.summary_eq (t : Trace) : t.summary = [traceModeByte t.mode, traceStateByte t.state]
    ++ (match t.trigger with
      | .anyFault => [0, 0]
      | .status st => [1, st.code]
      | .target v => [2, byteOf v.val]
      | .host g => [3, byteOf g.val])
    ++ [t.postCount, t.hosts.setWidth 8, t.lanes.setWidth 8, boolByte t.faultsOnly, t.write, byteOf t.wraps,
      boolByte t.holdsFault, boolByte t.trigIndex.isSome, t.trigIndex.getD 0xFF, byteOf t.postLeft]
    ++ be16 t.seq ++ [(t.claimant.map fun g => byteOf g.val).getD 0xFF] := by
  have trigger : triggerBytes t.trigger = match t.trigger with
      | .anyFault => [0, 0]
      | .status st => [1, st.code]
      | .target v => [2, byteOf v.val]
      | .host g => [3, byteOf g.val] := by
    cases t.trigger <;> rfl
  rw [Trace.summary, trigger, hostByte_eq]

theorem State.deviceInfoBytes_eq (s : State) (h : HostId) : s.deviceInfoBytes h =
    [0x04, 0x16, 0x01, byteOf h.val, loadStateByte s.loader.state,
      if s.loader.state = .loadFailed then loadFailureByte s.loader.reason else 0,
      byteOf s.straps.adm.val ||| (if s.straps.imgen then 4 else 0) ||| (byteOf s.straps.imga.val <<< 3)]
    ++ be32 (BitVec.ofNat 32 s.elapsed) := by
  have enabled : boolByte s.straps.imgen <<< 2 = ((if s.straps.imgen then 4 else 0 : Nat) : Byte) := by cases s.straps.imgen <;> rfl
  have reason : loadFailureByte (if s.loader.state = .loadFailed then s.loader.reason else none) =
      if s.loader.state = .loadFailed then loadFailureByte s.loader.reason else 0 := by
    split <;> rfl
  rw [State.deviceInfoBytes, enabled, reason]
  rfl

/-- Settles O25: each command answers the bytes its layout says, and hands back the state it was given. -/
theorem reportsChangeNothing : Obligations.ReportsChangeNothing := by
  refine ⟨fun s h x index outside ha => exec_tableRead_accepted ha (tableRead_outside outside s),
    fun s h x => ⟨fun t ha => ?_, fun y o ha => ?_, fun g ha => ?_, fun i ha => ?_, fun ha => ?_⟩, ?_⟩
  · intro e left waits
    refine ⟨exec_tableRead_accepted ha ?_, s.leaseSummary_eq t⟩
    rw [tableRead_byteOf, State.tableReadBytes, State.leaseSummary_eq]
    rfl
  · intro l first
    refine exec_laneStatus_accepted ha ?_
    rw [laneStatus_laneByte, State.laneStatusBytes_eq]
  · intro c r
    refine ⟨fun other right => exec_hostStatus_accepted ha ?_, fun allowed => exec_hostStatus_accepted ha ?_⟩
    · rw [hostStatus_byteOf, if_pos ⟨other, right⟩]
    · have passes : ¬(g ≠ h ∧ (s.host h).rights.admin = false) := by
        rintro ⟨other, right⟩
        rcases allowed with own | admin
        · exact other own
        · rw [right] at admin
          cases admin
      rw [hostStatus_byteOf, if_neg passes]
      exact congrArg (fun bytes => (s, (⟨.done, bytes⟩ : Reply))) (s.hostStatusBytes_eq g)
  · intro t
    refine ⟨exec_traceRead_accepted ha ?_, t.summary_eq⟩
    rw [traceRead_index]
    exact congrArg (fun bytes => (s, (⟨.done, [0, byteOf i.val] ++ bytes ++ s.trace.summary⟩ : Reply))) (traceRecordBytes_eq _)
  · refine exec_deviceInfo_accepted ha ?_
    rw [deviceInfo, State.deviceInfoBytes_eq]
  · exact ⟨rfl, fun g r => ⟨rfl, rfl, rfl, rfl, rfl, rfl, rfl, rfl, rfl, rfl, rfl, rfl, rfl, rfl, rfl, rfl, fun us => rfl⟩⟩

end Sys2Proof.Machine
end

section
/-! PROOFS. The Trace Unit: its commands (R161 to R164), what an offer does to the trace (R153 to R159), and the stop that is told
to the claimant (R160). -/

namespace Sys2Proof.Machine

/-! ## TRACE_CLAIM and TRACE_RELEASE -/

theorem exec_traceClaim_accepted {s s' : State} {h : HostId} {x option : Byte} {r : Reply}
    (ha : s.accepts h .traceClaim x [option] = true) (hr : traceClaim h [option] s = (s', r)) :
    exec (.traceClaim h x option) s = .next (s'.answers h .traceClaim x [option] r) :=
  congrArg Host.Outcome.next (State.sends_answered ha (congrArg answered hr))

theorem exec_traceRelease_accepted {s s' : State} {h : HostId} {x : Byte} {r : Reply}
    (ha : s.accepts h .traceRelease x [] = true) (hr : traceRelease h s = (s', r)) :
    exec (.traceRelease h x) s = .next (s'.answers h .traceRelease x [] r) :=
  congrArg Host.Outcome.next (State.sends_answered ha (congrArg answered hr))

theorem traceClaim_badField {option : Byte} (not0 : option ≠ 0) (not1 : option ≠ 1) (h : HostId) (s : State) :
    traceClaim h [option] s = (s, ⟨.badField, []⟩) := by
  have unread : (oneByte [option]).bind boolOfByte = none := (if_neg not0).trans (if_neg not1)
  rw [traceClaim, unread]
  rfl

theorem traceClaim_noRight {h : HostId} {s : State} (right : (s.host h).rights.admin = false) :
    traceClaim h [boolByte true] s = (s, ⟨.noRight, []⟩) := by
  simp [traceClaim, oneByte, boolOfByte_boolByte, right, plain]

theorem traceClaim_allowed {h : HostId} {force : Bool} {s : State} (allowed : force = false ∨ (s.host h).rights.admin = true) :
    traceClaim h [boolByte force] s =
      if s.trace.claimant = none ∨ s.trace.claimant = some h ∨ force = true then
        ({ s with trace := { s.trace with claimant := some h } },
          ⟨.done, ({ s.trace with claimant := some h } : Trace).summary⟩)
      else (s, ⟨.claimed, s.trace.summary⟩) := by
  have right : (force && !(s.host h).rights.admin) = false := by
    rcases allowed with own | admin
    · simp [own]
    · simp [admin]
  simp only [traceClaim, oneByte, Option.bind_some, boolOfByte_boolByte, right, Bool.false_eq_true, if_false]
  cases claimant : s.trace.claimant with
  | none => simp
  | some g => simp

theorem traceRelease_claimant {h : HostId} {s : State} (own : s.trace.claimant = some h) :
    traceRelease h s = ({ s with trace := { s.trace with claimant := none } }, ⟨.done, []⟩) := by
  simp [traceRelease, State.dropClaim, own, plain]

theorem traceRelease_other {h : HostId} {s : State} (other : s.trace.claimant ≠ some h) :
    traceRelease h s = (s, ⟨.notClaimant, []⟩) := by
  simp [traceRelease, other, plain]

/-! ## TRACE_CONTROL -/

theorem exec_traceControlClear_accepted {s s' : State} {h : HostId} {x : Byte} {r : Reply}
    (ha : s.accepts h .traceControl x [1] = true) (hr : traceControl h [1] s = (s', r)) :
    exec (.traceControlClear h x) s = .next (s'.answers h .traceControl x [1] r) :=
  congrArg Host.Outcome.next (State.sends_answered ha (congrArg answered hr))

theorem exec_traceControlOff_accepted {s s' : State} {h : HostId} {x : Byte} {r : Reply}
    (ha : s.accepts h .traceControl x [2] = true) (hr : traceControl h [2] s = (s', r)) :
    exec (.traceControlOff h x) s = .next (s'.answers h .traceControl x [2] r) :=
  congrArg Host.Outcome.next (State.sends_answered ha (congrArg answered hr))

theorem exec_traceControlSet_accepted {s s' : State} {h : HostId} {x : Byte} {set : RawTraceSet} {r : Reply}
    (ha : s.accepts h .traceControl x (0 :: RawTraceSet.toBytes set) = true)
    (hr : traceControl h (0 :: RawTraceSet.toBytes set) s = (s', r)) :
    exec (.traceControlSet h x set) s = .next (s'.answers h .traceControl x (0 :: RawTraceSet.toBytes set) r) :=
  congrArg Host.Outcome.next (State.sends_answered ha (congrArg answered hr))

theorem traceControl_other {h : HostId} {s : State} (other : s.trace.claimant ≠ some h) (p : List Byte) :
    traceControl h p s = (s, ⟨.notClaimant, []⟩) :=
  if_pos other

theorem traceControl_badField {h : HostId} {p : List Byte} {s : State} (own : s.trace.claimant = some h)
    (unread : parseTraceControl p = none) : traceControl h p s = (s, ⟨.badField, []⟩) := by
  simp [traceControl, own, unread, plain]

theorem traceControl_clear {h : HostId} {p : List Byte} {s : State} (own : s.trace.claimant = some h)
    (read : parseTraceControl p = some .clear) :
    traceControl h p s = ({ s with trace := s.trace.clear }, ⟨.done, s.trace.clear.summary⟩) := by
  simp [traceControl, own, read]

theorem traceControl_off {h : HostId} {p : List Byte} {s : State} (own : s.trace.claimant = some h)
    (read : parseTraceControl p = some .off) :
    traceControl h p s = ({ s with trace := s.trace.off }, ⟨.done, s.trace.off.summary⟩) := by
  simp [traceControl, own, read]

theorem traceControl_set {h : HostId} {p : List Byte} {c : TraceSettings} {s : State} (own : s.trace.claimant = some h)
    (read : parseTraceControl p = some (.set c)) :
    traceControl h p s = ({ s with trace := s.trace.set c }, ⟨.done, (s.trace.set c).summary⟩) := by
  simp [traceControl, own, read]

theorem parseTraceControl_set (r : RawTraceSet) :
    parseTraceControl (0 :: RawTraceSet.toBytes r) = (RawTraceSet.check r).map .set := rfl

theorem TraceMode.startState_eq (m : TraceMode) : m.startState = if m = .startAtTrigger then .armed else .running := by
  cases m <;> rfl

theorem Trace.clear_eq (t : Trace) : t.clear =
    { t with
      ring := Vector.replicate 256 none, write := 0, wraps := 0, holdsFault := false, trigIndex := none, postLeft := 0
      seq := 0, state := if t.mode = .startAtTrigger then .armed else .running } := by
  rw [Trace.clear, TraceMode.startState_eq]

/-- Settles O46. -/
theorem traceCommandsAct : Obligations.TraceCommandsAct := by
  refine ⟨fun s h x => ?_, fun s h x => ?_⟩
  · intro claimed
    refine ⟨fun option not0 not1 ha => exec_traceClaim_accepted ha (traceClaim_badField not0 not1 h s),
      fun force ha => ⟨?_, fun allowed takes => ?_, ?_⟩, fun ha => ⟨fun own => ?_, fun other => ?_⟩⟩
    · rintro rfl right
      exact exec_traceClaim_accepted ha (traceClaim_noRight right)
    · exact exec_traceClaim_accepted ha ((traceClaim_allowed allowed).trans (if_pos takes))
    · rintro g rfl claims other
      refine exec_traceClaim_accepted ha ((traceClaim_allowed (.inl rfl)).trans (if_neg ?_))
      simp [claims, other]
    · exact exec_traceRelease_accepted ha (traceRelease_claimant own)
    · exact exec_traceRelease_accepted ha (traceRelease_other other)
  · intro cleared
    have clear (t : Trace) : t.clear = cleared t := t.clear_eq
    refine ⟨fun ha => ⟨fun own => ?_, fun other => exec_traceControlClear_accepted ha (traceControl_other other _)⟩,
      fun ha => ⟨fun own => exec_traceControlOff_accepted ha (traceControl_off own rfl),
        fun other => exec_traceControlOff_accepted ha (traceControl_other other _)⟩, fun r => ?_⟩
    · rw [← clear]
      exact exec_traceControlClear_accepted ha (traceControl_clear own rfl)
    · intro p ha
      refine ⟨fun other => exec_traceControlSet_accepted ha (traceControl_other other _), fun own wrong => ?_, fun c own right => ?_⟩
      · exact exec_traceControlSet_accepted ha (traceControl_badField own (by rw [parseTraceControl_set, wrong]; rfl))
      · intro t
        have set : s.trace.set c = t := clear _
        rw [← set]
        exact exec_traceControlSet_accepted ha (traceControl_set own (by rw [parseTraceControl_set, right]; rfl))

/-! ## Offers to the trace (R153 to R159) -/

theorem Trace.passes_iff (t : Trace) (r : TraceRecord) : t.passes r = true ↔
    (∀ h, r.host = some h → hostIn t.hosts h = true) ∧ laneIn t.lanes r.lane = true
      ∧ (t.faultsOnly = true → r.status.isFault = true) := by
  have host : r.host.all (hostIn t.hosts) = true ↔ ∀ h, r.host = some h → hostIn t.hosts h = true := by
    cases r.host <;> simp
  have faults : (!t.faultsOnly || r.status.isFault) = true ↔ (t.faultsOnly = true → r.status.isFault = true) := by
    cases t.faultsOnly <;> simp
  rw [Trace.passes, Bool.and_eq_true, Bool.and_eq_true, host, faults, and_assoc]

theorem Trigger.met_iff (g : Trigger) (r : TraceRecord) : g.met r = true ↔
    match g with
    | .anyFault => r.status.isFault = true
    | .status st => r.status = st
    | .target v => r.target = some v
    | .host h => r.host = some h := by
  cases g <;> simp [Trigger.met]

theorem Trace.offer_dropped {t : Trace} (asleep : t.state = .off ∨ t.state = .stopped) (r : TraceRecord) :
    t.offer r = (t, none) := if_pos asleep

/-- An offer to a trace that is awake, which numbers and judges it. -/
theorem Trace.offer_awake {t : Trace} (on : t.state ≠ .off) (going : t.state ≠ .stopped) (r : TraceRecord) :
    t.offer r = if t.passes r then Trace.take { t with seq := t.seq + 1 } { r with seq := t.seq }
      else ({ t with seq := t.seq + 1 }, none) :=
  if_neg fun asleep => asleep.elim on going

theorem Trace.offer_passes {t : Trace} (on : t.state ≠ .off) (going : t.state ≠ .stopped) {r : TraceRecord}
    (passes : t.passes r = true) : t.offer r = Trace.take { t with seq := t.seq + 1 } { r with seq := t.seq } :=
  (Trace.offer_awake on going r).trans (if_pos passes)

/-- Taking a record changes neither the number nor the claim. -/
theorem Trace.take_kept (t : Trace) (r : TraceRecord) : (t.take r).1.seq = t.seq ∧ (t.take r).1.claimant = t.claimant := by
  unfold Trace.take
  split
  · exact ⟨rfl, rfl⟩
  · exact ⟨rfl, rfl⟩
  · split <;> exact ⟨rfl, rfl⟩
  · split
    · exact ⟨rfl, rfl⟩
    · split
      · split <;> exact ⟨rfl, rfl⟩
      · exact ⟨rfl, rfl⟩
    · split <;> exact ⟨rfl, rfl⟩
  · split <;> exact ⟨rfl, rfl⟩

theorem Trace.offer_claimant (t : Trace) (r : TraceRecord) : (t.offer r).1.claimant = t.claimant := by
  by_cases asleep : t.state = .off ∨ t.state = .stopped
  · rw [Trace.offer_dropped asleep]
  · rw [Trace.offer_awake (fun off => asleep (.inl off)) (fun stopped => asleep (.inr stopped))]
    split
    · exact (Trace.take_kept _ _).2
    · rfl

theorem Trace.take_continuous {t : Trace} (state : t.state = .running) (mode : t.mode = .continuous) (r : TraceRecord) :
    t.take r = (t.store r, none) := by
  simp [Trace.take, state, mode]

/-- Settles O47. -/
theorem traceOffersAreNumberedAndStored : Obligations.TraceOffersAreNumberedAndStored := by
  intro t r
  refine ⟨t.passes_iff r, fun asleep => Trace.offer_dropped asleep r, fun on going => ?_, fun on going fails => ?_,
    fun state mode passes => ?_⟩
  · rw [Trace.offer_awake on going]
    split
    · exact (Trace.take_kept _ _).1
    · rfl
  · rw [Trace.offer_awake on going, fails]
    rfl
  · rw [Trace.offer_passes (by simp [state]) (by simp [state]) passes,
      Trace.take_continuous (t := { t with seq := t.seq + 1 }) state mode]
    refine ⟨?_, fun i hi other => ?_, ?_, rfl, rfl, rfl, rfl⟩
    · exact Vector.getElem_set_self _
    · exact Vector.getElem_set_ne t.write.isLt hi (Ne.symm other)
    · exact BitVec.toNat_add t.write 1

/-- The three ways of a record in a trace that is awake and has a trigger (R158, R159). -/
theorem Trace.take_stopAfterTrigger {t : Trace} (mode : t.mode = .stopAfterTrigger) (state : t.state = .running) (r : TraceRecord) :
    t.take r = if t.trigger.met r then
        if t.postCount = 0 then ({ t.store r with state := .stopped, trigIndex := some t.write, postLeft := 0 }, some 1)
        else ({ t.store r with state := .post, trigIndex := some t.write, postLeft := t.postCount.toNat }, none)
      else (t.store r, none) := by
  rw [Trace.take, state, mode]
  rfl

theorem Trace.take_post {t : Trace} (state : t.state = .post) (r : TraceRecord) :
    t.take r = if t.postLeft ≤ 1 then ({ t.store r with state := .stopped, postLeft := 0 }, some 1)
      else ({ t.store r with postLeft := t.postLeft - 1 }, none) := by
  rw [Trace.take, state]
  rfl

theorem Trace.take_armed {t : Trace} (state : t.state = .armed) (r : TraceRecord) :
    t.take r = if t.trigger.met r then ({ t.store r with state := .running, trigIndex := some t.write }, none) else (t, none) := by
  rw [Trace.take, state]

theorem Trace.take_startAtTrigger {t : Trace} (mode : t.mode = .startAtTrigger) (state : t.state = .running) (r : TraceRecord) :
    t.take r = if t.write = 255 then ({ t.store r with state := .stopped, postLeft := 0 }, some 2) else (t.store r, none) := by
  rw [Trace.take, state, mode]
  rfl

/-- A stop is told to the claimant, and an offer changes nothing else but the trace (R160). -/
theorem State.offer_trace (s : State) (r : TraceRecord) : (s.offer r).trace = (s.trace.offer r).1 := by
  unfold State.offer
  dsimp only
  split <;> rfl

theorem State.offer_host (s : State) (r : TraceRecord) (h : HostId) :
    (s.offer r).host h = s.hostAfterOffer r h (s.host h) := by
  have claimant := s.trace.offer_claimant r
  unfold State.offer State.hostAfterOffer
  dsimp only
  cases stop : (s.trace.offer r).2 with
  | none => rfl
  | some detail =>
    cases claims : (s.trace.offer r).1.claimant with
    | none => simp [← claimant, claims]; rfl
    | some g =>
      dsimp only
      rw [State.notify_host, ← claimant, claims]
      by_cases own : h = g
      · subst own
        simp
        rfl
      · rw [if_neg own, if_neg fun e => own (Option.some.inj e).symm]
        rfl

/-- Settles O48. -/
theorem traceTriggersAndStops : Obligations.TraceTriggersAndStops := by
  constructor
  · intro t r passes met stored
    have met_iff : t.trigger.met { r with seq := t.seq } = true ↔ met := t.trigger.met_iff r
    refine ⟨fun mode state => ?_, fun state => ?_, fun state => ?_, fun mode state => ?_⟩
    all_goals rw [Trace.offer_passes (by simp [state]) (by simp [state]) passes]
    · rw [Trace.take_stopAfterTrigger (t := { t with seq := t.seq + 1 }) mode state]
      refine ⟨fun hit some => ?_, fun hit none => ?_, fun miss => ?_⟩
      · exact (if_pos (met_iff.2 hit)).trans (if_neg some)
      · exact (if_pos (met_iff.2 hit)).trans (if_pos none)
      · exact if_neg (mt met_iff.1 miss)
    · rw [Trace.take_post (t := { t with seq := t.seq + 1 }) state]
      exact ⟨fun more => if_neg (by simpa using more), fun last => if_pos last⟩
    · rw [Trace.take_armed (t := { t with seq := t.seq + 1 }) state]
      exact ⟨fun hit => if_pos (met_iff.2 hit), fun miss => if_neg (mt met_iff.1 miss)⟩
    · rw [Trace.take_startAtTrigger (t := { t with seq := t.seq + 1 }) mode state]
      exact ⟨fun room => if_neg room, fun full => if_pos full⟩
  · intro s r u
    have only := s.offer_only r
    exact ⟨s.offer_trace r, s.offer_table r, only.rest.laneA, only.rest.laneB, fun h => s.offer_host r h⟩

end Sys2Proof.Machine
end

section
/-! PROOFS. The pins of a lane: foreign controllers and the alert input (R105, R107, R118 to R120). -/

namespace Sys2Proof.Machine

theorem State.updLane_congr {s : State} {y : LaneId} {f g : Lane → Lane} (e : f (s.lane y) = g (s.lane y)) :
    s.updLane y f = s.updLane y g := by
  cases y <;> simp only [State.updLane, State.lane] at e ⊢ <;> rw [e]

/-- Outside a device reset an event has its effect. -/
theorem next_live {s : State} (released : s.resetAsserted = false) (f : State → State) :
    (Host.Outcome.next (s.live f) : Host.Outcome State Fault Refusal) = .next (f s) :=
  congrArg Host.Outcome.next (State.live_of_released s f released)

theorem Lane.alertPending_iff (l : Lane) :
    l.alertPending = true ↔ l.alertLow = true ∧ l.alertEnabled = true ∧ l.masked = false := by
  simp [Lane.alertPending, and_assoc]

theorem State.lineLow_of_idle {s : State} {y : LaneId} (idle : (s.lane y).mode = .idle) (line : Line) :
    s.lineLow y line = s.updLane y fun l =>
      { l.toForeign s.elapsed with
        clockLowFrom := if line = .clock then some (l.clockLowFrom.getD s.elapsed) else l.clockLowFrom
        dataLowFrom := if line = .data then some (l.dataLowFrom.getD s.elapsed) else l.dataLowFrom } :=
  if_pos idle

/-- A lane that both lines leave free: it goes IDLE, or to RUNNING with the next attempt of a run that waits (R105, R109). -/
theorem Lane.freed_eq (l : Lane) (now : Nat) : (if l.run.isSome then l.nextAttempt now else l.toIdle) =
    match l.run with
    | none => { l with mode := .idle, closing := false, clockLowFrom := none, dataLowFrom := none }
    | some r =>
      { l with mode := .running, closing := false, clockLowFrom := some now, dataLowFrom := some now
               run := some { r with attempt := r.attempt + 1, results := [], stoppedAt := 0 } } := by
  cases waits : l.run with
  | none => simp [Lane.toIdle, waits]
  | some r => simp [Lane.nextAttempt, Lane.onLines, waits]

theorem State.leaveForeign_of_foreign {s : State} {y : LaneId} (foreign : (s.lane y).mode = .foreign) :
    s.leaveForeign y = s.updLane y fun l => if l.run.isSome then l.nextAttempt s.elapsed else l.toIdle :=
  if_pos foreign

theorem State.idleReached_of_high {s : State} {y : LaneId} {since : Nat} (reached : since + 1000 ≤ s.elapsed)
    (high : (s.lane y).lowSeen ≤ since) : s.idleReached y since = s.leaveForeign y :=
  if_pos ⟨reached, decide_eq_true high⟩

theorem State.alertRises_of_low {s : State} {y : LaneId} (low : (s.lane y).alertLow = true) :
    s.alertRises y = s.updLane y fun l => { l with alertLow := false, masked := if l.mode = .faulted then l.masked else false } := by
  refine (if_pos low).trans (State.updLane_congr ?_)
  by_cases faulted : (s.lane y).mode = .faulted <;> simp [faulted]

/-- Settles O31. -/
theorem pinEventsOnALane : Obligations.PinEventsOnALane := by
  refine ⟨Lane.alertPending_iff, fun s y released => ⟨fun idle => ⟨?_, ?_⟩, fun foreign => ?_, ?_, fun low => ?_⟩⟩
  · exact (next_live released _).trans (congrArg Host.Outcome.next (State.lineLow_of_idle idle .clock))
  · exact (next_live released _).trans (congrArg Host.Outcome.next (State.lineLow_of_idle idle .data))
  · intro gone
    have leaves : s.leaveForeign y = gone :=
      (State.leaveForeign_of_foreign foreign).trans (State.updLane_congr (Lane.freed_eq _ _))
    refine ⟨(next_live released _).trans (congrArg Host.Outcome.next leaves), fun since reached high => ?_⟩
    exact (next_live released _).trans (congrArg Host.Outcome.next ((State.idleReached_of_high reached high).trans leaves))
  · exact next_live released _
  · exact (next_live released _).trans (congrArg Host.Outcome.next (State.alertRises_of_low low))

end Sys2Proof.Machine
end

section
/-! PROOFS. Lane dispatch: what makes a candidate (R70 to R76), and what a grant does (R82, R83). -/

namespace Sys2Proof.Machine

/-! ## Candidates (R70 to R76) -/

theorem isItem_iff (g : List SubEntry) : isItem g = true ↔
    (∀ e ∈ g, e.state = .queued) ∧ (∀ e, g.getLast? = some e → e.desc.mark = .solo ∨ e.desc.mark = .last) ∧ g ≠ [] := by
  have closed : isOpen g = false ↔ ∀ e, g.getLast? = some e → e.desc.mark = .solo ∨ e.desc.mark = .last := by
    unfold isOpen
    cases g.getLast? with
    | none => simp
    | some e => cases mark : e.desc.mark <;> simp [mark]
  simp only [isItem, SubEntry.queued, Bool.and_eq_true, List.all_eq_true, decide_eq_true_eq, Bool.not_eq_eq_eq_not, Bool.not_true,
    closed, List.isEmpty_eq_false_iff, and_assoc, ne_eq]

theorem LeaseState.heldByOther_eq_false_iff (l : LeaseState) (h : HostId) :
    l.heldByOther h = false ↔ ∀ k, k ≠ h → l ≠ .held k ∧ ∀ r, l ≠ .ending k r := by
  cases l with
  | free => simp [LeaseState.heldByOther, LeaseState.holder]
  | held g =>
    simp only [LeaseState.heldByOther, LeaseState.holder, decide_eq_false_iff_not, not_not]
    constructor
    · rintro rfl k other
      exact ⟨fun e => other (LeaseState.held.inj e).symm, fun r e => by cases e⟩
    · intro none
      by_contra other
      exact (none g other).1 rfl
  | ending g r =>
    simp only [LeaseState.heldByOther, LeaseState.holder, decide_eq_false_iff_not, not_not]
    constructor
    · rintro rfl k other
      exact ⟨(fun e => by cases e), fun r e => other (LeaseState.ending.inj e).1.symm⟩
    · intro none
      by_contra other
      exact (none g other).2 r rfl

theorem EntryState.admits_iff (st : EntryState) (k : Kind) :
    st.admits k = true ↔ st = .online ∨ st = .quarantined ∧ k = .probe := by
  cases st <;> simp [EntryState.admits]

theorem heldBehind_eq_false_iff (older g : List SubEntry) :
    heldBehind older g = false ↔ ∀ o ∈ older, o.state = .queued → ∀ e ∈ g, e.desc.target ≠ o.desc.target := by
  simp [heldBehind, SubEntry.queued]

theorem State.itemOnLane_iff (s : State) (x : LaneId) (g : List SubEntry) :
    s.itemOnLane x g = true ↔ ∃ e, g.head? = some e ∧ (s.entry e.desc.target).cfg.lane = x := by
  unfold State.itemOnLane
  cases g.head? <;> simp

/-- The rules R70 to R75 of one piece of work behind older ones, spelled out. -/
theorem State.eligible_iff (s : State) (h : HostId) (x : LaneId) (older g : List SubEntry) :
    s.eligible h x older g = true ↔ (s.host h).attached = true ∧ (s.host h).paused = false
      ∧ ((∀ e ∈ g, e.state = .queued) ∧ (∀ e, g.getLast? = some e → e.desc.mark = .solo ∨ e.desc.mark = .last) ∧ g ≠ [])
      ∧ (∃ e, g.head? = some e ∧ (s.entry e.desc.target).cfg.lane = x)
      ∧ (∀ o ∈ older, o.state = .queued → ∀ e ∈ g, e.desc.target ≠ o.desc.target)
      ∧ ∀ e ∈ g, (∀ k, k ≠ h → (s.entry e.desc.target).lease.state ≠ .held k
            ∧ ∀ r, (s.entry e.desc.target).lease.state ≠ .ending k r)
          ∧ ((s.entry e.desc.target).state = .online ∨ (s.entry e.desc.target).state = .quarantined ∧ e.desc.kind = .probe) := by
  simp only [State.eligible, Bool.and_eq_true, Bool.not_eq_eq_eq_not, Bool.not_true, List.all_eq_true, isItem_iff,
    State.itemOnLane_iff, heldBehind_eq_false_iff, LeaseState.heldByOther_eq_false_iff, EntryState.admits_iff, and_assoc]

/-- The first eligible piece of a queue that has one: no eligible piece stands before it. -/
theorem State.firstEligible_some {s : State} {h : HostId} {x : LaneId} {older g : List SubEntry} {gs : List (List SubEntry)}
    (found : s.firstEligible h x older gs = some g) : ∃ before after, gs = before ++ g :: after
      ∧ s.eligible h x (older ++ before.flatten) g = true
      ∧ ∀ before' g' after', gs = before' ++ g' :: after' → s.eligible h x (older ++ before'.flatten) g' = true →
        before.flatten.length ≤ before'.flatten.length := by
  induction gs generalizing older with
  | nil => cases found
  | cons k gs ih =>
    rw [State.firstEligible] at found
    split at found
    · next eligible =>
      cases found
      exact ⟨[], gs, rfl, by simpa using eligible, fun _ _ _ _ _ => Nat.zero_le _⟩
    · next not =>
      obtain ⟨before, after, split, eligible, first⟩ := ih found
      refine ⟨k :: before, after, by rw [split]; rfl, by simpa using eligible, ?_⟩
      intro before' g' after' cut fits
      cases before' with
      | nil =>
        cases cut
        exact absurd (by simpa using fits) not
      | cons k' before' =>
        cases cut
        have shorter := first before' g' after' rfl (by simpa using fits)
        simpa using shorter

theorem State.firstEligible_none {s : State} {h : HostId} {x : LaneId} {older : List SubEntry} {gs : List (List SubEntry)}
    (none : s.firstEligible h x older gs = none) (before : List (List SubEntry)) (g : List SubEntry) (after : List (List SubEntry))
    (cut : gs = before ++ g :: after) : s.eligible h x (older ++ before.flatten) g = false := by
  induction gs generalizing older before with
  | nil => simp at cut
  | cons k gs ih =>
    rw [State.firstEligible] at none
    split at none
    · cases none
    · next not =>
      cases before with
      | nil =>
        cases cut
        simpa using not
      | cons k' before =>
        cases cut
        simpa using ih none before rfl

/-- A piece of whole work in its place is an eligible part of the queue, and back. -/
theorem State.fits_iff_eligible (s : State) (h : HostId) (y : LaneId) {pre g post : List SubEntry}
    (fresh : startsAfresh (s.host h).sq = true) :
    ((s.host h).sq = pre ++ g ++ post ∧ wholeWork g = true ∧ startsAfresh post = true ∧ s.eligible h y pre g = true) ↔
      ∃ before after, groups (s.host h).sq = before ++ g :: after ∧ pre = before.flatten ∧ post = after.flatten
        ∧ s.eligible h y before.flatten g = true := by
  constructor
  · rintro ⟨sq, whole, starts, eligible⟩
    refine ⟨groups pre, groups post, ?_, (groups_flatten pre).symm, (groups_flatten post).symm, by rwa [groups_flatten]⟩
    rw [sq, groups_split pre g post whole starts]
  · rintro ⟨before, after, cut, rfl, rfl, eligible⟩
    have whole := fun k (hk : k ∈ groups (s.host h).sq) => wholeWork_of_mem_groups fresh hk
    refine ⟨?_, whole g (by simp [cut]), startsAfresh_flatten fun k hk => whole k (by simp [cut, hk]), eligible⟩
    rw [← groups_flatten (s.host h).sq, cut]
    simp

/-- Settles O36: eligibility rule by rule, and the first eligible part is the oldest. -/
theorem candidatesAreEligible : Obligations.CandidatesAreEligible := by
  intro s h y c fit fresh
  have fit_iff (pre g post : List SubEntry) : fit pre g post ↔
      c.sq = pre ++ g ++ post ∧ wholeWork g = true ∧ startsAfresh post = true ∧ s.eligible h y pre g = true := by
    rw [State.eligible_iff]
    constructor
    · rintro ⟨sq, attached, running, whole, starts, closed, queued, onLane, admits, first⟩
      have some : g ≠ [] := by
        rintro rfl
        cases whole
      exact ⟨sq, whole, starts, attached, running, ⟨queued, closed, some⟩, onLane, first, admits⟩
    · rintro ⟨sq, whole, starts, attached, running, ⟨queued, closed, _⟩, onLane, first, admits⟩
      exact ⟨sq, attached, running, whole, starts, closed, queued, onLane, admits, first⟩
  have place (pre g post : List SubEntry) := (fit_iff pre g post).trans (s.fits_iff_eligible h y fresh)
  refine ⟨fun g found => ?_, ?_, fun law g found => ?_⟩
  · obtain ⟨before, after, cut, eligible, first⟩ := State.firstEligible_some found
    refine ⟨before.flatten, after.flatten, (place _ _ _).2 ⟨before, after, cut, rfl, rfl, by simpa using eligible⟩, ?_⟩
    intro pre' g' post' fits
    obtain ⟨before', after', cut', rfl, _, eligible'⟩ := (place _ _ _).1 fits
    exact first before' g' after' cut' (by simpa using eligible')
  · rintro ⟨pre, g, post, fits⟩ none
    obtain ⟨before, after, cut, rfl, _, eligible⟩ := (place _ _ _).1 fits
    have not := State.firstEligible_none none before g after cut
    rw [List.nil_append, eligible] at not
    cases not
  · intro e he
    obtain ⟨before, after, cut, eligible, _⟩ := State.firstEligible_some found
    obtain ⟨_, _, _, ⟨first, head, lane⟩, _⟩ := (s.eligible_iff h y _ g).1 eligible
    obtain ⟨_, _, work⟩ := law
    have same := ((work h).2 g (State.candidate_mem found)).1 e he first (List.mem_of_mem_head? head)
    exact same.1.trans lane

/-! ## Grants (R77, R82, R83) -/

theorem mem_roundRobin (last : Option HostId) (h : HostId) : h ∈ roundRobin last := by
  revert last h
  decide

/-- The candidate of a host in a choice. -/
theorem State.candidates_find (s : State) (x : LaneId) (k : HostId) :
    (s.candidates x).find? (fun c => decide (c.1 = k)) = (s.candidate k x).map fun g => (k, g) := by
  cases candidate : s.candidate k x with
  | none =>
    rw [Option.map_none, List.find?_eq_none]
    intro c hc own
    have := State.mem_candidates hc
    rw [of_decide_eq_true own, candidate] at this
    cases this
  | some g =>
    have mem : (k, g) ∈ s.candidates x := List.mem_filterMap.2 ⟨k, mem_roundRobin _ k, by rw [candidate]; rfl⟩
    obtain ⟨c, found⟩ := Option.isSome_iff_exists.1 (List.find?_isSome.2 ⟨(k, g), mem, decide_eq_true rfl⟩ :
      ((s.candidates x).find? fun c => decide (c.1 = k)).isSome = true)
    have own : c.1 = k := by simpa using List.find?_some found
    have same := State.mem_candidates (List.mem_of_find?_eq_some found)
    rw [own, candidate] at same
    rw [found, Option.map_some, ← own, Option.some.inj same]

theorem SubEntry.isOf_iff (e : SubEntry) (g : List SubEntry) :
    e.isOf g = true ↔ e.state = .queued ∧ ∃ i ∈ g, i.desc.tag = e.desc.tag := by
  simp only [SubEntry.isOf, SubEntry.queued, SubEntry.tagged, Bool.and_eq_true, decide_eq_true_eq, List.any_eq_true,
    eq_comm (a := e.desc.tag)]

/-- The state once every candidate but host h's is passed over (R82). -/
def State.passedOver (s : State) (cs : List (HostId × List SubEntry)) (h : HostId) : State :=
  cs.foldl (fun s c => if c.1 = h then s else s.updHost c.1 fun k => k.raiseBypass c.2) s

theorem State.grant_eq (s : State) (x : LaneId) (cs : List (HostId × List SubEntry)) (h : HostId) (g : List SubEntry) :
    s.grant x cs h g = ((s.passedOver cs h).updHost h fun c => c.startItem x g).updLane x fun l =>
      { l.onLines s.elapsed with
        mode := .running, closing := false, run := some (s.newRun x h g), lastGranted := some h, grantOwed := false } := rfl

theorem State.passedOver_only (s : State) (cs : List (HostId × List SubEntry)) (h : HostId) :
    s.OnlyHosts (s.passedOver cs h) := by
  unfold State.passedOver
  induction cs generalizing s with
  | nil => exact .refl s
  | cons c cs ih =>
    rw [List.foldl_cons]
    refine State.OnlyHosts.trans ?_ (ih _)
    split
    · exact .refl s
    · exact ⟨rfl, rfl, rfl, rfl, rfl, rfl, rfl, rfl, rfl⟩

theorem State.passedOver_host (s : State) (x : LaneId) (h k : HostId) : (s.passedOver (s.candidates x) h).host k =
    match s.candidate k x with
    | some g => if k = h then s.host k else (s.host k).raiseBypass g
    | none => s.host k := by
  rw [State.passedOver, State.raised_host (s.candidates_nodup x), State.candidates_find]
  cases s.candidate k x <;> rfl

/-- The hosts after a grant: the winner's entries run, and the other candidates are passed over. -/
theorem State.grant_host_self (s : State) (x : LaneId) (h : HostId) (g : List SubEntry) :
    (s.grant x (s.candidates x) h g).host h = (s.host h).startItem x g := by
  rw [State.grant_eq, State.updLane_host, State.updHost_host, if_pos rfl, State.passedOver_host]
  cases s.candidate h x
  · rfl
  · exact congrArg (HostCtx.startItem · x g) (if_pos rfl)

theorem State.grant_host_ne (s : State) (x : LaneId) {h k : HostId} (other : k ≠ h) (g : List SubEntry) :
    (s.grant x (s.candidates x) h g).host k =
      match s.candidate k x with
      | some g' => (s.host k).raiseBypass g'
      | none => s.host k := by
  rw [State.grant_eq, State.updLane_host, State.updHost_host, if_neg other, State.passedOver_host]
  cases s.candidate k x
  · rfl
  · exact if_neg other

theorem State.choose_of_winner {s : State} {y : LaneId} {h : HostId} {g : List SubEntry} (idle : (s.lane y).mode = .idle)
    (loaded : s.loader.state ≠ .loading)
    (quiet : (s.lane y).alertLow = false ∨ (s.lane y).alertEnabled = false ∨ (s.lane y).masked = true
      ∨ (s.lane y).grantOwed = true) (wins : s.winner (s.candidates y) = some (h, g)) :
    s.choose y = s.grant y (s.candidates y) h g := by
  have ready : s.loading = false := decide_eq_false loaded
  have some : (s.candidates y).isEmpty = false := by
    have mem := State.winner_mem wins
    cases cs : s.candidates y with
    | nil => simp [cs] at mem
    | cons c cs => rfl
  have grants : ((s.lane y).alertPending && !((s.lane y).grantOwed && !(s.candidates y).isEmpty)) = false := by
    rw [some, Lane.alertPending]
    rcases quiet with low | off | masked | owed
    · simp [low]
    · simp [off]
    · simp [masked]
    · simp [owed]
  simp only [State.choose, idle, ready, and_self, if_true, grants, Bool.false_eq_true, if_false, wins]

/-- Settles O34. -/
theorem dispatcherGrantsTheWinner : Obligations.DispatcherGrantsTheWinner := by
  intro s y h g released idle loaded quiet wins
  have map (c : HostCtx) (g : List SubEntry) (f : SubEntry → SubEntry) : (c.sq.map fun e => if e.isOf g then f e else e) =
      c.sq.map fun e => if e.state = .queued ∧ ∃ i ∈ g, i.desc.tag = e.desc.tag then f e else e := by
    simp only [SubEntry.isOf_iff]
  have only := s.passedOver_only (s.candidates y) h
  refine ⟨_, (next_live released _).trans (congrArg Host.Outcome.next (State.choose_of_winner idle loaded quiet wins)),
    ?_, ?_, fun k other g' candidate => ?_, fun k other none => ?_, fun k => ?_, fun z other => ?_, ?_, ?_⟩
  · rw [State.grant_eq, State.updLane_lane_self, State.updHost_lane, only.lane]
    rfl
  · rw [State.grant_host_self]
    exact map _ g _
  · rw [State.grant_host_ne s y other, candidate]
    exact map _ g' _
  · rw [State.grant_host_ne s y other, none]
  · by_cases own : k = h
    · rw [own, State.grant_host_self]
      rfl
    · rw [State.grant_host_ne s y own]
      split <;> rfl
  · rw [State.grant_eq, State.updLane_lane_ne _ _ other, State.updHost_lane, only.lane]
  · rw [State.grant_eq, State.updLane_table]
    exact only.table
  · rw [State.grant_eq, State.updLane_trace]
    exact only.trace

end Sys2Proof.Machine
end

section
/-! PROOFS. The exact effect of an offer, of the hand-over of a sweep transfer (R7, R126) and of a sweep that goes on (R122, R127). -/

namespace Sys2Proof.Machine

/-! ## Offers -/

theorem State.offer_lane (s : State) (r : TraceRecord) (y : LaneId) : (s.offer r).lane y = s.lane y :=
  (s.offer_only r).rest.lane y

theorem State.offer_elapsed (s : State) (r : TraceRecord) : (s.offer r).elapsed = s.elapsed := (s.offer_only r).rest.elapsed

/-- What an offer tells the hosts depends on the trace and the time alone. -/
theorem State.hostAfterOffer_congr {s t : State} (trace : t.trace = s.trace) (time : t.elapsed = s.elapsed) (r : TraceRecord)
    (h : HostId) (c : HostCtx) : t.hostAfterOffer r h c = s.hostAfterOffer r h c := by
  simp only [State.hostAfterOffer, trace, State.stamp, time]

/-! ## The hand-over of a sweep transfer (R7, R126) -/

theorem sweepTraceRecord_eq (x : LaneId) (v : Visit) (st : CStatus) (out inn now : Nat) :
    sweepTraceRecord x v st out inn (stampAt now) = transferRecord x v st out inn now := by
  have kind : v.stage.kind = if v.stage = .read then .writeRead else .write := by
    cases v.stage <;> simp [VisitStage.kind]
  rw [sweepTraceRecord, kind]
  rfl

theorem State.handOver_eq (s : State) (x : LaneId) (v : Visit) (st : CStatus) (out inn : Nat) :
    s.handOver x v st out inn =
      (s.applyStatus v.target st false (s.entry v.target).cfg.threshold).offer (transferRecord x v st out inn s.elapsed) := by
  rw [State.handOver, State.stamp, sweepTraceRecord_eq]

theorem State.handOver_lane (s : State) (x : LaneId) (v : Visit) (st : CStatus) (out inn : Nat) (y : LaneId) :
    (s.handOver x v st out inn).lane y = s.lane y :=
  (s.handOver_only x v st out inn).rest.lane y

theorem State.handOver_elapsed (s : State) (x : LaneId) (v : Visit) (st : CStatus) (out inn : Nat) :
    (s.handOver x v st out inn).elapsed = s.elapsed :=
  (s.handOver_only x v st out inn).rest.elapsed

theorem State.handOver_rights (s : State) (x : LaneId) (v : Visit) (st : CStatus) (out inn : Nat) (h : HostId) :
    ((s.handOver x v st out inn).host h).rights = (s.host h).rights :=
  (s.handOver_only x v st out inn).rights h

theorem State.handOver_entry (s : State) (x : LaneId) (v : Visit) (st : CStatus) (out inn : Nat) (t : TargetId) :
    (s.handOver x v st out inn).entry t =
      if t = v.target then (s.entry t).tallied st false (s.entry t).cfg.threshold else s.entry t := by
  rw [State.handOver_eq, State.offer_entry, State.applyStatus_entry]
  split
  · next same => rw [same]
  · rfl

theorem State.handOver_trace (s : State) (x : LaneId) (v : Visit) (st : CStatus) (out inn : Nat) :
    (s.handOver x v st out inn).trace = (s.trace.offer (transferRecord x v st out inn s.elapsed)).1 := by
  rw [State.handOver_eq, State.offer_trace, (s.applyStatus_only _ _ _ _).rest.trace]

/-- What a hand-over tells the hosts. -/
theorem State.handOver_host (s : State) (x : LaneId) (v : Visit) (st : CStatus) (out inn : Nat) (h : HostId) :
    (s.handOver x v st out inn).host h = s.hostAfterTransfer x v st out inn h := by
  have only := s.applyStatus_only v.target st false (s.entry v.target).cfg.threshold
  rw [State.handOver_eq, State.offer_host, State.hostAfterOffer_congr only.rest.trace only.rest.elapsed, State.applyStatus_host,
    State.hostAfterTransfer]

/-- A state that has the table and trace of a hand-over, and the lanes but for one, has the transfer handed over. -/
theorem State.handedOver_of {s u : State} {x : LaneId} {v : Visit} {st : CStatus} {out inn : Nat}
    (table : u.table = (s.handOver x v st out inn).table) (trace : u.trace = (s.handOver x v st out inn).trace)
    (lanes : ∀ z, z ≠ x → u.lane z = s.lane z) : s.handedOver u x v st out inn := by
  refine ⟨fun t => ?_, trace.trans (s.handOver_trace x v st out inn), lanes⟩
  have same : u.entry t = (s.handOver x v st out inn).entry t := by rw [State.entry, table, State.entry]
  rw [same, State.handOver_entry]

/-! ## The next member (R122) -/

theorem State.visitable_iff (s : State) (x : LaneId) (t : TargetId) : (s.entry t).isMember x = true ↔ s.visitable x t := by
  simp [TableEntry.isMember, State.visitable, and_assoc]

theorem abovePosition_iff (pos : Option TargetId) (t : TargetId) : abovePosition pos t = true ↔ ∀ p, pos = some p → p < t := by
  cases pos <;> simp [abovePosition]

theorem State.nextMember_some {s : State} {x : LaneId} {pos : Option TargetId} {t : TargetId}
    (next : s.nextMember x pos = some t) : s.visitsNext x pos t := by
  obtain ⟨fits, i, hi, at_, before⟩ := List.find?_eq_some_iff_getElem.1 next
  rw [Bool.and_eq_true, abovePosition_iff, State.visitable_iff] at fits
  refine ⟨fits.2, fits.1, fun v lower above visitable => ?_⟩
  have place : t.val = i := by simp [← at_, allTargets]
  have miss := before v.val (place ▸ lower)
  have here : (allTargets[v.val]'(by simp [allTargets])) = v := by simp [allTargets]
  rw [here, (abovePosition_iff pos v).2 above, (s.visitable_iff x v).2 visitable] at miss
  cases miss

theorem State.nextMember_none {s : State} {x : LaneId} {pos : Option TargetId} (none : s.nextMember x pos = none) (t : TargetId) :
    ¬s.visitsNext x pos t := by
  rintro ⟨visitable, above, _⟩
  have miss := List.find?_eq_none.1 none t (mem_allTargets t)
  rw [(abovePosition_iff pos t).2 above, (s.visitable_iff x t).2 visitable] at miss
  exact miss rfl

theorem State.visitsNext_unique {s : State} {x : LaneId} {pos : Option TargetId} {t v : TargetId} (ht : s.visitsNext x pos t)
    (hv : s.visitsNext x pos v) : t = v := by
  obtain ⟨visitable, above, lowest⟩ := ht
  obtain ⟨visitable', above', lowest'⟩ := hv
  rcases lt_trichotomy t v with less | same | more
  · exact absurd visitable (lowest' t less above)
  · exact same
  · exact absurd visitable' (lowest v more above')

theorem State.visitsNext_congr {s t : State} (table : t.table = s.table) (x : LaneId) (pos : Option TargetId) (v : TargetId) :
    t.visitsNext x pos v ↔ s.visitsNext x pos v := by
  simp only [State.visitsNext, State.visitable, State.entry, table]

/-! ## A sweep goes on (R122, R127) -/

theorem State.sweepEnd_eq (s : State) (x : LaneId) (found : Bool) : s.sweepEnd x found =
    let masks := !found && (s.lane x).alertEnabled && (s.lane x).alertLow
    let idle := s.updLane x fun l => { l.toIdle with sweep := none, grantOwed := true, masked := l.masked || masks }
    if masks then idle.notifyAll (fun h => (s.host h).rights.admin) .alertUnresolved (.lane x) 0 else idle := rfl

theorem State.sweepOn_table (s : State) (x : LaneId) (w : Sweep) : (s.sweepOn x w).table = s.table := by
  rcases s.sweepOn_cases x w with ⟨t, _, on⟩ | ⟨_, ends⟩
  · rw [on, State.updLane_table]
  · rw [ends, (s.sweepEnd_only x w.found).rest.table, State.updLane_table]

theorem State.sweepOn_trace (s : State) (x : LaneId) (w : Sweep) : (s.sweepOn x w).trace = s.trace := by
  rcases s.sweepOn_cases x w with ⟨t, _, on⟩ | ⟨_, ends⟩
  · rw [on, State.updLane_trace]
  · rw [ends, (s.sweepEnd_only x w.found).rest.trace, State.updLane_trace]

theorem State.sweepOn_lane_ne (s : State) (x : LaneId) (w : Sweep) {z : LaneId} (other : z ≠ x) :
    (s.sweepOn x w).lane z = s.lane z := by
  rcases s.sweepOn_cases x w with ⟨t, _, on⟩ | ⟨_, ends⟩
  · rw [on, State.updLane_lane_ne _ _ other]
  · rw [ends, (s.sweepEnd_only x w.found).rest.lane, State.updLane_lane_ne _ _ other]

/-- A sweep that goes on after a state `m` that has the lane, but for its mode, and the time of s. -/
theorem State.sweepOn_goesOn {s m : State} {x : LaneId} {mode : LaneMode} (lane : m.lane x = { s.lane x with mode := mode })
    (sweeps : mode = .sweep) (time : m.elapsed = s.elapsed) (w : Sweep) : s.sweepGoesOn (m.sweepOn x w) x w := by
  have table := m.sweepOn_table x w
  have next (t : TargetId) := State.visitsNext_congr table x w.position t
  have entry (t : TargetId) : (m.sweepOn x w).entry t = m.entry t := by rw [State.entry, table, State.entry]
  rcases m.sweepOn_cases x w with ⟨t, found, on⟩ | ⟨last, ends⟩
  · have visits := State.nextMember_some found
    refine ⟨fun v hv => ?_, fun nobody => absurd ((next t).2 visits) (nobody t)⟩
    obtain rfl := State.visitsNext_unique visits ((next v).1 hv)
    rw [entry, on, State.updLane_lane_self, lane, time, sweeps]
    rfl
  · refine ⟨fun v hv => absurd ((next v).1 hv) (State.nextMember_none last v), fun _ => ?_⟩
    rw [ends, (m.sweepEnd_only x w.found).rest.lane, State.updLane_lane_self, lane]
    rfl

/-- What the hosts take when a sweep goes on. -/
theorem State.sweepOn_hosts {s m : State} {x : LaneId} (enabled : (m.lane x).alertEnabled = (s.lane x).alertEnabled)
    (low : (m.lane x).alertLow = (s.lane x).alertLow) (time : m.elapsed = s.elapsed)
    (rights : ∀ h, (m.host h).rights = (s.host h).rights) (w : Sweep) (h : HostId) :
    s.hostAfterVisit (m.sweepOn x w) x w h (m.host h) ((m.sweepOn x w).host h) := by
  have next (t : TargetId) := State.visitsNext_congr (m.sweepOn_table x w) x w.position t
  rcases m.sweepOn_cases x w with ⟨t, found, on⟩ | ⟨last, ends⟩
  · refine ⟨fun _ => ?_, fun nobody => absurd ((next t).2 (State.nextMember_some found)) (nobody t)⟩
    rw [on, State.updLane_host]
  · refine ⟨fun ⟨v, hv⟩ => absurd ((next v).1 hv) (State.nextMember_none last v), fun _ => ?_⟩
    have stamp : m.stamp = s.stamp := by rw [State.stamp, time, State.stamp]
    rw [ends, State.sweepEnd_eq]
    simp only [enabled, low]
    cases masks : (!w.found && (s.lane x).alertEnabled && (s.lane x).alertLow)
    · rw [if_neg (by simp), if_neg, State.updLane_host]
      rintro ⟨found, on, asserted, _⟩
      simp [found, on, asserted] at masks
    · simp only [Bool.and_eq_true, Bool.not_eq_eq_eq_not, Bool.not_true] at masks
      obtain ⟨⟨found, on⟩, asserted⟩ := masks
      rw [if_pos rfl, State.notifyAll_host, State.updLane_host]
      simp only [rights, found, on, asserted, true_and]
      have at_ : (m.updLane x fun l => { l.toIdle with sweep := none, grantOwed := true, masked := l.masked || true }).stamp =
          s.stamp := by
        rw [State.stamp, State.updLane_elapsed, time, State.stamp]
      rw [at_]

end Sys2Proof.Machine
end

section
/-! PROOFS. The Alert Sweep: its beginning, the ends of its transfers, and its aborts (R111, R121 to R128). -/

namespace Sys2Proof.Machine

/-! ## A sweep begins (R78, R121) -/

theorem State.choose_of_alert {s : State} {y : LaneId} (idle : (s.lane y).mode = .idle) (loaded : s.loader.state ≠ .loading)
    (pending : (s.lane y).alertPending = true) (first : (s.lane y).grantOwed = false ∨ s.candidates y = []) :
    s.choose y = s.sweepBegin y := by
  have ready : s.loading = false := decide_eq_false loaded
  have begins : ((s.lane y).alertPending && !((s.lane y).grantOwed && !(s.candidates y).isEmpty)) = true := by
    rcases first with owes | nobody
    · simp [pending, owes]
    · simp [pending, nobody]
  simp only [State.choose, idle, ready, and_self, if_true, begins]

/-- Settles O37. -/
theorem pendingAlertBeginsASweep : Obligations.PendingAlertBeginsASweep := by
  intro s y released idle loaded low enabled unmasked first w
  have pending : (s.lane y).alertPending = true := (s.lane y).alertPending_iff.2 ⟨low, enabled, unmasked⟩
  let m := s.updLane y fun l => { l with mode := .sweep }
  have lane : m.lane y = { s.lane y with mode := .sweep } := State.updLane_lane_self ..
  have time : m.elapsed = s.elapsed := State.updLane_elapsed ..
  refine ⟨m.sweepOn y w, (next_live released _).trans (congrArg Host.Outcome.next (State.choose_of_alert idle loaded pending first)),
    State.sweepOn_goesOn lane rfl time w, fun h => ?_, ?_, ?_, fun z other => ?_⟩
  · have told := State.sweepOn_hosts (s := s) (m := m) (x := y) (by rw [lane]) (by rw [lane]) time
      (fun h => by rw [State.updLane_host]) w h
    rwa [State.updLane_host] at told
  · rw [State.sweepOn_table, State.updLane_table]
  · rw [State.sweepOn_trace, State.updLane_trace]
  · rw [State.sweepOn_lane_ne _ _ _ other, State.updLane_lane_ne _ _ other]

/-! ## Transfers of a visit -/

theorem State.visitOn_of_visit {s : State} {y : LaneId} {w : Sweep} {v : Visit} (mode : (s.lane y).mode = .sweep)
    (open_ : (s.lane y).closing = false) (sweep : (s.lane y).sweep = some w) (visit : w.visit = some v) :
    s.visitOn y = some (w, v) := by
  simp [State.visitOn, mode, open_, sweep, visit]

theorem exec_alertReadEnd_eq {s : State} {y : LaneId} {w : Sweep} {v : Visit} (released : s.resetAsserted = false)
    (on : s.visitOn y = some (w, v)) (reads : v.stage = .read) (e : ReadEnd) : exec (.alertReadEnd y e) s = .next (
      match e with
      | .ok b => s.alertByte y w v b
      | .addrNack second dataLow => (s.handOver y v .addrNack (if second then 1 else 0) 0).afterNack y w dataLow
      | .dataNack dataLow => (s.handOver y v .dataNack 0 0).afterNack y w dataLow
      | .stretch out since => if v.stage.reaches out 0 then s.transferStretched y v out since else s
      | .arbLost out inn => if v.stage.reaches out inn then s.transferLost y v out inn else s) := by
  refine (next_live released _).trans (congrArg Host.Outcome.next ?_)
  rw [State.alertReadEnds, on]
  exact if_pos reads

theorem exec_writeBackEnd_eq {s : State} {y : LaneId} {w : Sweep} {v : Visit} (released : s.resetAsserted = false)
    (on : s.visitOn y = some (w, v)) (writes : v.stage ≠ .read) (e : WriteEnd) : exec (.writeBackEnd y e) s = .next (
      match e with
      | .ok => (s.handOver y v .ok 2 0).sweepOn y w
      | .addrNack dataLow => (s.handOver y v .addrNack 0 0).afterNack y w dataLow
      | .dataNack acked dataLow => if acked < 2 then (s.handOver y v .dataNack acked 0).afterNack y w dataLow else s
      | .stretch out since => if v.stage.reaches out 0 then s.transferStretched y v out since else s
      | .arbLost out => if v.stage.reaches out 0 then s.transferLost y v out 0 else s) := by
  refine (next_live released _).trans (congrArg Host.Outcome.next ?_)
  rw [State.writeBackEnds, on]
  exact if_neg writes

/-- The bytes a transfer of a visit can have moved (R123, R125). -/
theorem VisitStage.reaches_iff (g : VisitStage) (out inn : Nat) :
    g.reaches out inn = true ↔ if g = .read then out ≤ 1 ∧ inn ≤ out else out ≤ 2 ∧ inn = 0 := by
  cases g <;> simp [VisitStage.reaches]

theorem VisitStage.fits_iff (g : VisitStage) (p : Progress) : g.fits p = true ↔
    (p.elem = 0 ∧ p.opening = false ∧ p.done = []) ∧ g.reaches p.written p.part.length = true := by
  simp [VisitStage.fits]

/-! ### A transfer is handed over and the sweep goes on -/

/-- A transfer has been handed over, and after it the sweep goes on. -/
theorem State.handOver_sweepOn {s : State} {y : LaneId} (mode : (s.lane y).mode = .sweep) (w : Sweep) (v : Visit) (st : CStatus)
    (out inn : Nat) :
    let u := (s.handOver y v st out inn).sweepOn y w
    s.handedOver u y v st out inn ∧ s.sweepGoesOn u y w
      ∧ ∀ h, s.hostAfterVisit u y w h (s.hostAfterTransfer y v st out inn h) (u.host h) := by
  intro u
  have lane : (s.handOver y v st out inn).lane y = { s.lane y with mode := .sweep } := by
    rw [State.handOver_lane, ← mode]
  have time := s.handOver_elapsed y v st out inn
  refine ⟨State.handedOver_of (State.sweepOn_table ..) (State.sweepOn_trace ..) fun z other => ?_,
    State.sweepOn_goesOn lane rfl time w, fun h => ?_⟩
  · rw [State.sweepOn_lane_ne _ _ _ other, State.handOver_lane]
  · rw [← State.handOver_host]
    exact State.sweepOn_hosts (by rw [lane]) (by rw [lane]) time (s.handOver_rights y v st out inn) w h

/-- Settles O43. -/
theorem writeBackEndsOk : Obligations.WriteBackEndsOk := by
  intro s y w v b released mode open_ sweep visit stage
  have on := State.visitOn_of_visit mode open_ sweep visit
  exact ⟨_, exec_writeBackEnd_eq released on (by rw [stage]; exact nofun) .ok, State.handOver_sweepOn mode w v .ok 2 0⟩

/-! ### An alert read that returned a byte (R124) -/

/-- The state once a nonzero byte is told to the subscribers. -/
def State.toldByte (s : State) (v : Visit) (b : Byte) : State := if b = 0 then s else s.tellSubscribers v.target .alert b

theorem State.toldByte_only (s : State) (v : Visit) (b : Byte) : s.HostsOnly (s.toldByte v b) := by
  unfold State.toldByte
  split
  · exact .refl s
  · exact s.tellSubscribers_only _ _ _

theorem State.toldByte_host (s : State) (v : Visit) (b : Byte) (h : HostId) : (s.toldByte v b).host h =
    if b ≠ 0 ∧ hostIn (s.entry v.target).cfg.subscribers h = true then
      (s.host h).takeNotice .alert (.target v.target) b s.stamp else s.host h := by
  unfold State.toldByte
  by_cases zero : b = 0
  · rw [if_pos zero, if_neg fun both => both.1 zero]
  · rw [if_neg zero, State.tellSubscribers_host]
    simp only [ne_eq, zero, not_false_eq_true, true_and]

/-- A transfer that ended OK brings no host a notice of the Target Table: a sweep transfer restores no entry (R7). -/
theorem State.hostAfterTransfer_ok (s : State) (x : LaneId) (v : Visit) (out inn : Nat) (h : HostId) :
    s.hostAfterTransfer x v .ok out inn h = s.hostAfterOffer (transferRecord x v .ok out inn s.elapsed) h (s.host h) := by
  rw [State.hostAfterTransfer, ← State.applyStatus_host, State.applyStatus_ok]
  rfl

/-- Handing over after the byte is told is handing over, but for the notices that tell it. -/
theorem State.toldByte_handOver (s : State) (y : LaneId) (v : Visit) (b : Byte) :
    ((s.toldByte v b).handOver y v .ok 1 1).table = (s.handOver y v .ok 1 1).table
      ∧ ((s.toldByte v b).handOver y v .ok 1 1).trace = (s.handOver y v .ok 1 1).trace
      ∧ ∀ h, ((s.toldByte v b).handOver y v .ok 1 1).host h = s.hostAfterOffer (transferRecord y v .ok 1 1 s.elapsed) h
          (if b ≠ 0 ∧ hostIn (s.entry v.target).cfg.subscribers h = true then
            (s.host h).takeNotice .alert (.target v.target) b s.stamp else s.host h) := by
  have only := s.toldByte_only v b
  refine ⟨?_, ?_, fun h => ?_⟩
  · rw [State.handOver_eq, State.handOver_eq, State.offer_table, State.offer_table, State.applyStatus_ok, State.applyStatus_ok]
    simp only [Bool.false_eq_true, if_false, State.updEntry, State.entry, only.rest.table]
  · rw [State.handOver_trace, State.handOver_trace, only.rest.trace, only.rest.elapsed]
  · rw [State.handOver_host, State.hostAfterTransfer_ok, State.hostAfterOffer_congr only.rest.trace only.rest.elapsed,
      only.rest.elapsed, State.toldByte_host]

theorem State.alertByte_eq (s : State) (y : LaneId) (w : Sweep) (v : Visit) (b : Byte) : s.alertByte y w v b =
    if b ≠ 0 ∧ v.alertClear = true then
      ((s.toldByte v b).handOver y v .ok 1 1).updLane y fun l =>
        { l.onLines s.elapsed with
          sweep := some
            { w with found := w.found || decide (b ≠ 0), visit := some { v with stage := .writeBack b, start := s.elapsed } } }
    else ((s.toldByte v b).handOver y v .ok 1 1).sweepOn y { w with found := w.found || decide (b ≠ 0) } := rfl

/-- Settles O42. -/
theorem alertReadEndsOk : Obligations.AlertReadEndsOk := by
  intro s y w v b released mode open_ sweep visit stage w' told
  have on := State.visitOn_of_visit mode open_ sweep visit
  have only := s.toldByte_only v b
  obtain ⟨table, trace, hosts⟩ := s.toldByte_handOver y v b
  let m := (s.toldByte v b).handOver y v .ok 1 1
  have lanes (z : LaneId) : m.lane z = s.lane z := (State.handOver_lane ..).trans (only.rest.lane z)
  have time : m.elapsed = s.elapsed := (State.handOver_elapsed ..).trans only.rest.elapsed
  have row := exec_alertReadEnd_eq released on stage (.ok b)
  by_cases back : b ≠ 0 ∧ v.alertClear = true
  · refine ⟨_, row.trans (congrArg Host.Outcome.next ((s.alertByte_eq y w v b).trans (if_pos back))),
      State.handedOver_of ?_ ?_ fun z other => ?_, fun _ _ => ⟨?_, fun h => ?_⟩, fun none => ?_⟩
    · rw [State.updLane_table, table]
    · rw [State.updLane_trace, trace]
    · rw [State.updLane_lane_ne _ _ other]
      exact lanes z
    · rw [State.updLane_lane_self]
      exact congrArg (fun l : Lane => { l.onLines s.elapsed with
        sweep := some { w' with visit := some { v with stage := .writeBack b, start := s.elapsed } } }) (lanes y)
    · rw [State.updLane_host]
      exact hosts h
    · rcases none with zero | kept
      · exact absurd zero back.1
      · rw [back.2] at kept
        cases kept
  · have lane : m.lane y = { s.lane y with mode := .sweep } := by rw [lanes, ← mode]
    refine ⟨_, row.trans (congrArg Host.Outcome.next ((s.alertByte_eq y w v b).trans (if_neg back))),
      State.handedOver_of ?_ ?_ fun z other => ?_, fun some clears => absurd ⟨some, clears⟩ back, fun _ => ⟨?_, fun h => ?_⟩⟩
    · rw [State.sweepOn_table, table]
    · rw [State.sweepOn_trace, trace]
    · rw [State.sweepOn_lane_ne _ _ _ other]
      exact lanes z
    · exact State.sweepOn_goesOn lane rfl time w'
    · have rights (h : HostId) : (m.host h).rights = (s.host h).rights :=
        (State.handOver_rights ..).trans (only.rights h)
      have goes := State.sweepOn_hosts (s := s) (m := m) (x := y) (by rw [lane]) (by rw [lane]) time rights w' h
      rwa [hosts h] at goes

/-! ### The wires of a transfer (R97, R98, R111) -/

/-- What a hold or a loss leaves of the acts of a sequence. -/
theorem State.heldActs_of_carried {s : State} {y : LaneId} {c : Carried} {cs : List Carried} (on : s.carriedOn y = some (c :: cs))
    {p : Progress} {sent : List LineAct} (mem : sent ∈ s.heldActs y p) :
    ∃ pre, sent = pre ++ [.clockHigh, .release .clock, .release .data]
      ∧ (pre ++ [.clockHigh] <+: lineActs (attemptWires ((c :: cs).map Carried.wires))
        ∨ ∃ cut, pre = cut ++ [.answer, .pull .clock, .pull .data, .release .clock]
            ∧ cut ++ [.answer] <+: lineActs (attemptWires ((c :: cs).map Carried.wires))) := by
  rw [State.heldActs, on, Option.map_some, Option.getD_some] at mem
  rw [← attemptActs_lines]
  rcases List.mem_append.1 mem with held | afterNack
  · obtain ⟨pre, rfl, begins⟩ := heldActs_spec held
    exact ⟨pre, by simp [letGo], .inl begins⟩
  · obtain ⟨cut, rfl, begins⟩ := heldAfterNackActs_spec afterNack
    exact ⟨_, by simp [letGo, stopToClock], .inr ⟨cut, rfl, begins⟩⟩

theorem LineAct.loses_iff (a : LineAct) : a.loses = true ↔ a = .bothHigh ∨ a = .dataHigh := by
  cases a <;> simp [LineAct.loses]

theorem State.lostActs_of_carried {s : State} {y : LaneId} {c : Carried} {cs : List Carried} (on : s.carriedOn y = some (c :: cs))
    {p : Progress} {sent : List LineAct} (mem : sent ∈ s.lostActs y p) :
    ∃ pre a, sent = pre ++ [a, .release .clock, .release .data] ∧ (a = .bothHigh ∨ a = .dataHigh)
      ∧ pre ++ [a] <+: lineActs (attemptWires ((c :: cs).map Carried.wires)) := by
  rw [State.lostActs, on, Option.map_some, Option.getD_some] at mem
  obtain ⟨pre, a, rfl, loses, begins⟩ := lostActs_spec mem
  rw [attemptActs_lines] at begins
  exact ⟨pre, a, by simp [letGo], a.loses_iff.1 loses, begins⟩

theorem State.carriedOn_of_visit {s : State} {y : LaneId} {w : Sweep} {v : Visit} (on : s.visitOn y = some (w, v)) :
    s.carriedOn y = some [v.carried] := by
  rw [State.carriedOn, on]

/-! ### Transfers that fail (R97, R98, R111) -/

theorem State.heldBeyond_of {s : State} {y : LaneId} {since stretch : Nat} (beyond : since + stretch * 100 < s.elapsed)
    (timed : ∀ k, (s.lane y).clockLowFrom = some k → k ≤ since) : s.heldBeyond y since stretch = true := by
  have fits : timingFits (s.lane y).clockLowFrom since = true := by
    unfold timingFits
    cases low : (s.lane y).clockLowFrom with
    | none => rfl
    | some k => exact decide_eq_true (timed k low)
  simp [State.heldBeyond, beyond, fits]

/-- A STRETCH_TIMEOUT or ARBITRATION_LOSS of a lane on which a visit's transfer is. -/
theorem exec_stretchTimeout_visit {s : State} {y : LaneId} {w : Sweep} {v : Visit} (released : s.resetAsserted = false)
    (on : s.visitOn y = some (w, v)) {p : Progress} (fits : v.stage.fits p = true) (since : Nat) :
    exec (.stretchTimeout y p since) s = .next (s.transferStretched y v p.written since) := by
  refine (next_live released _).trans (congrArg Host.Outcome.next ?_)
  rw [State.stretches, on]
  exact if_pos fits

theorem exec_arbitrationLoss_visit {s : State} {y : LaneId} {w : Sweep} {v : Visit} (released : s.resetAsserted = false)
    (on : s.visitOn y = some (w, v)) {p : Progress} (fits : v.stage.fits p = true) :
    exec (.arbitrationLoss y p) s = .next (s.transferLost y v p.written p.part.length) := by
  refine (next_live released _).trans (congrArg Host.Outcome.next ?_)
  rw [State.losesLane, on]
  exact if_pos fits

/-- The ways in which a visit's transfer ends at a NACK with a STOP that finds the data line `dataLow`. -/
theorem exec_nack_visit {s : State} {y : LaneId} {w : Sweep} {v : Visit} (released : s.resetAsserted = false)
    (on : s.visitOn y = some (w, v)) {c : Instr} {st : CStatus} {out : Nat} {dataLow : Bool}
    (row : (∃ second, v.stage = .read ∧ c = .alertReadEnd y (.addrNack second dataLow) ∧ st = .addrNack
          ∧ out = if second then 1 else 0)
      ∨ v.stage = .read ∧ c = .alertReadEnd y (.dataNack dataLow) ∧ st = .dataNack ∧ out = 0
      ∨ v.stage ≠ .read ∧ c = .writeBackEnd y (.addrNack dataLow) ∧ st = .addrNack ∧ out = 0
      ∨ v.stage ≠ .read ∧ c = .writeBackEnd y (.dataNack out dataLow) ∧ st = .dataNack ∧ out < 2) :
    exec c s = .next ((s.handOver y v st out 0).afterNack y w dataLow) := by
  rcases row with ⟨second, reads, rfl, rfl, rfl⟩ | ⟨reads, rfl, rfl, rfl⟩ | ⟨writes, rfl, rfl, rfl⟩ | ⟨writes, rfl, rfl, few⟩
  · exact exec_alertReadEnd_eq released on reads _
  · exact exec_alertReadEnd_eq released on reads _
  · exact exec_writeBackEnd_eq released on writes _
  · exact (exec_writeBackEnd_eq released on writes _).trans (congrArg Host.Outcome.next (if_pos few))

theorem State.transferStretched_of_held {s : State} {y : LaneId} {v : Visit} {since : Nat}
    (held : s.heldBeyond y since v.stretch = true) (out : Nat) :
    s.transferStretched y v out since = (s.handOver y v .stretchTimeout out 0).updLane y fun l => l.toClosing since :=
  if_pos held

/-! ### The closing STOP (R97, R111) -/

/-- A closing STOP that leaves a line low leaves the lane in its closing phase. -/
theorem State.closes_of_low {s : State} {y : LaneId} (closing : (s.lane y).closing = true) {clockHigh dataHigh : Bool}
    (low : (clockHigh && dataHigh) = false) : s.closes y clockHigh dataHigh = s.updLane y fun l =>
      { l with
        clockLowFrom := some (if clockHigh then s.elapsed else l.clockLowFrom.getD s.elapsed)
        dataLowFrom := some (if dataHigh then s.elapsed else l.dataLowFrom.getD s.elapsed) } := by
  simp only [State.closes, closing, if_true, low, Bool.false_eq_true, if_false]

theorem State.closes_of_sweep {s : State} {y : LaneId} (closing : (s.lane y).closing = true) (mode : (s.lane y).mode = .sweep)
    {w : Sweep} (sweep : (s.lane y).sweep = some w) : s.closes y true true = s.sweepOn y w := by
  simp only [State.closes, closing, if_true, Bool.and_self, mode, sweep]

/-- Settles O44. -/
theorem failedSweepTransfersGoOn : Obligations.FailedSweepTransfersGoOn := by
  intro s y w released mode sweep
  refine ⟨fun v c st out open_ visit row => ?_, fun v c out since open_ visit row beyond timed => ?_, fun closing => ?_,
    fun clockHigh dataHigh closing low => ?_⟩
  · exact ⟨_, exec_nack_visit released (State.visitOn_of_visit mode open_ sweep visit) row, State.handOver_sweepOn mode w v st out 0⟩
  · have on := State.visitOn_of_visit mode open_ sweep visit
    have held := State.transferStretched_of_held (State.heldBeyond_of beyond timed) out
    have stretched : exec c s = .next (s.transferStretched y v out since) := by
      rcases row with ⟨reads, rfl, few⟩ | ⟨writes, rfl, few⟩ | ⟨p, rfl, elem, opening, done, rfl, moved⟩
      · refine (exec_alertReadEnd_eq released on reads _).trans (congrArg Host.Outcome.next (if_pos ?_))
        exact (v.stage.reaches_iff out 0).2 (by simp [reads, few])
      · refine (exec_writeBackEnd_eq released on writes _).trans (congrArg Host.Outcome.next (if_pos ?_))
        exact (v.stage.reaches_iff out 0).2 (by simp [writes, few])
      · refine exec_stretchTimeout_visit released on ((v.stage.fits_iff p).2 ⟨⟨elem, opening, done⟩, ?_⟩) since
        rw [VisitStage.reaches_iff]
        simpa using moved
    refine ⟨_, stretched.trans (congrArg Host.Outcome.next held), State.handedOver_of ?_ ?_ fun z other => ?_, ?_, fun h => ?_,
      fun p sent mem => ?_⟩
    · rw [State.updLane_table]
    · rw [State.updLane_trace]
    · rw [State.updLane_lane_ne _ _ other, State.handOver_lane]
    · rw [State.updLane_lane_self, State.handOver_lane]
      rfl
    · rw [State.updLane_host, State.handOver_host]
    · exact State.heldActs_of_carried (State.carriedOn_of_visit on) mem
  · have lane : s.lane y = { s.lane y with mode := .sweep } := by rw [← mode]
    refine ⟨_, (next_live released _).trans (congrArg Host.Outcome.next (State.closes_of_sweep closing mode sweep)),
      State.sweepOn_goesOn lane rfl rfl w, fun h => State.sweepOn_hosts rfl rfl rfl (fun _ => rfl) w h, State.sweepOn_table .., State.sweepOn_trace ..,
      fun z other => State.sweepOn_lane_ne _ _ _ other⟩
  · refine ⟨_, (next_live released _).trans (congrArg Host.Outcome.next (State.closes_of_low closing low)), ?_, ?_, ?_,
      State.updLane_hosts .., State.updLane_table .., State.updLane_trace ..⟩
    all_goals rw [State.updLane_lane_self]
    · exact mode
    · exact closing
    · exact sweep

/-- Settles O45. -/
theorem sweepAborts : Obligations.SweepAborts := by
  intro s y w v c st out inn released mode open_ sweep visit row
  have on := State.visitOn_of_visit mode open_ sweep visit
  have aborts : exec c s = .next ((s.handOver y v st out inn).sweepAbort y) := by
    rcases row with ⟨reads, read⟩ | ⟨writes, rfl, write⟩ | ⟨p, rfl, rfl, elem, opening, done, rfl, rfl, moved⟩
    · rcases read with ⟨rfl, rfl, few, fewer⟩ | ⟨second, rfl, rfl, rfl, rfl⟩ | ⟨rfl, rfl, rfl, rfl⟩
      · refine (exec_alertReadEnd_eq released on reads _).trans (congrArg Host.Outcome.next (if_pos ?_))
        exact (v.stage.reaches_iff out inn).2 (by simp [reads, few, fewer])
      · exact exec_nack_visit released on (dataLow := true) (.inl ⟨second, reads, rfl, rfl, rfl⟩)
      · exact exec_nack_visit released on (dataLow := true) (.inr (.inl ⟨reads, rfl, rfl, rfl⟩))
    · rcases write with ⟨rfl, rfl, few⟩ | ⟨rfl, rfl, rfl⟩ | ⟨rfl, rfl, few⟩
      · refine (exec_writeBackEnd_eq released on writes _).trans (congrArg Host.Outcome.next (if_pos ?_))
        exact (v.stage.reaches_iff out 0).2 (by simp [writes, few])
      · exact exec_nack_visit released on (dataLow := true) (.inr (.inr (.inl ⟨writes, rfl, rfl, rfl⟩)))
      · exact exec_nack_visit released on (dataLow := true) (.inr (.inr (.inr ⟨writes, rfl, rfl, few⟩)))
    · exact exec_arbitrationLoss_visit released on
        ((v.stage.fits_iff p).2 ⟨⟨elem, opening, done⟩, (v.stage.reaches_iff _ _).2 moved⟩)
  refine ⟨_, aborts, State.handedOver_of ?_ ?_ fun z other => ?_, ?_, fun h => ?_, fun p sent mem => ?_⟩
  · rw [State.sweepAbort, State.updLane_table]
  · rw [State.sweepAbort, State.updLane_trace]
  · rw [State.sweepAbort, State.updLane_lane_ne _ _ other, State.handOver_lane]
  · rw [State.sweepAbort, State.updLane_lane_self, State.handOver_lane, State.handOver_elapsed]
    rfl
  · rw [State.sweepAbort, State.updLane_host, State.handOver_host]
  · exact State.lostActs_of_carried (State.carriedOn_of_visit on) mem

end Sys2Proof.Machine
end

section
/-! PROOFS. The Image Loader: the fields in order, the failures of the wires, and the valid image (R197 to R202). -/

namespace Sys2Proof.Machine

/-! ## The field that is next (R198) -/

/-- Behind the header the entries follow, and then the check. -/
theorem Image.next_behind_header {im : Image} (header : 6 ≤ im.received.length) :
    im.next = if im.entries.length < im.count then some .entry
      else if im.received.length = 6 + 12 * im.count then some .check else none := by
  unfold Image.next
  split <;> first | omega | rfl

theorem Image.next_check {im : Image} (all : im.received.length = 6 + 12 * im.count) (whole : im.entries.length = im.count) :
    im.next = some .check := by
  rw [Image.next_behind_header (by omega), if_neg (by omega), if_pos all]

theorem Image.next_none {im : Image} (all : im.received.length = 8 + 12 * im.count) (whole : im.entries.length = im.count) :
    im.next = none := by
  rw [Image.next_behind_header (by omega), if_neg (by omega), if_neg (by omega)]

theorem Image.next_entry {im : Image} (header : 6 ≤ im.received.length) (more : im.entries.length < im.count) :
    im.next = some .entry := by
  rw [Image.next_behind_header header, if_pos more]

/-! ## How a load fails (R201) -/

/-- A load that has failed with reason r after an offer, which leaves the lanes, the table and the loader. -/
theorem State.offered_loadFails (s : State) (st : CStatus) (out inn : Nat) (r : LoadFailure) :
    let u := (s.offerTransfer st out inn).loadFails r
    u.loader.state = .loadFailed ∧ u.loader.reason = some r ∧ u.loader.phase = .none ∧ u.laneA = { s.laneA with mode := .idle }
      ∧ u.laneB = s.laneB ∧ u.table = s.table := by
  have only := s.offerTransfer_only st out inn
  have table : (s.offerTransfer st out inn).table = s.table := by
    unfold State.offerTransfer
    split
    · exact s.offer_table _
    · rfl
  refine ⟨rfl, rfl, rfl, ?_, only.rest.laneB, table⟩
  exact congrArg (fun l : Lane => { l with mode := .idle }) only.rest.laneA

/-! ## The judgement of a field (R198, R201) -/

/-- A field that passes is kept. -/
theorem exec_imageFieldCheck_passes {s : State} {bytes : List Byte} {f : ImageField} {im : Image}
    (released : s.resetAsserted = false) (works : s.loader.phase = .transfer) (next : s.loader.image.next = some f)
    (size : bytes.length = f.size) (passes : s.loader.image.judge f bytes = .ok im) :
    exec (.imageFieldCheck bytes) s = .next { s with loader := { s.loader with image := im } } := by
  refine (next_live released _).trans (congrArg Host.Outcome.next ?_)
  simp only [State.imageField, next, works, size, and_self, if_true, passes]

/-- A field that fails ends the load with its reason. -/
theorem exec_imageFieldCheck_fails {s : State} {bytes : List Byte} {f : ImageField} {r : LoadFailure}
    (released : s.resetAsserted = false) (works : s.loader.phase = .transfer) (next : s.loader.image.next = some f)
    (size : bytes.length = f.size) (fails : s.loader.image.judge f bytes = .error r) :
    ∃ u, exec (.imageFieldCheck bytes) s = .next u ∧ u.loader.state = .loadFailed ∧ u.loader.reason = some r
      ∧ u.loader.phase = .none ∧ u.laneA.mode = .idle ∧ u.laneA.speed = s.laneA.speed ∧ u.laneB = s.laneB ∧ u.table = s.table := by
  have row : exec (.imageFieldCheck bytes) s =
      .next ((s.offerTransfer .ok 2 (s.loader.image.received.length + bytes.length)).loadFails r) := by
    refine (next_live released _).trans (congrArg Host.Outcome.next ?_)
    simp only [State.imageField, next, works, size, and_self, if_true, fails]
  obtain ⟨state, reason, phase, laneA, laneB, table⟩ := s.offered_loadFails .ok 2 (s.loader.image.received.length + bytes.length) r
  exact ⟨_, row, state, reason, phase, by rw [laneA], by rw [laneA], laneB, table⟩

theorem speedOfByte_eq_none {b : Byte} (not0 : b ≠ 0) (not1 : b ≠ 1) : speedOfByte b = none :=
  (if_neg not0).trans (if_neg not1)

theorem Image.duplicate_iff (im : Image) (c : Settings) :
    im.duplicate c = true ↔ ∃ d ∈ im.entries, d.lane = c.lane ∧ d.address = c.address := by
  simp [Image.duplicate]

/-- The judgement of an image entry: its place and its fields, and then the places of the earlier ones. -/
theorem Image.judge_entry (im : Image) (index : Byte) (fields : List Byte) : im.judge .entry (index :: fields) =
    if index.toNat = im.entries.length then
      match (RawSettings.ofBytes fields).bind RawSettings.check with
      | some c =>
        if im.duplicate c then .error .duplicateAddress
        else .ok { im with received := im.received ++ index :: fields, entries := im.entries ++ [c] }
      | none => .error .badEntry
    else .error .badEntry := by
  rw [Image.judge, imageEntry]
  by_cases place : index.toNat = im.entries.length
  · rw [if_pos place, if_pos place] <;> rfl
  · rw [if_neg place, if_neg place]

/-- Settles O51: the field that is next, and what its judgement says. -/
theorem imageFieldsAreJudged : Obligations.ImageFieldsAreJudged := by
  intro s bytes released works im run failed kept got
  have keeps {f : ImageField} {im' : Image} (next : im.next = some f) (size : bytes.length = f.size)
      (passes : im.judge f bytes = .ok im') : kept im' := exec_imageFieldCheck_passes released works next size passes
  have fails {f : ImageField} {r : LoadFailure} (next : im.next = some f) (size : bytes.length = f.size)
      (refused : im.judge f bytes = .error r) : failed r := exec_imageFieldCheck_fails released works next size refused
  refine ⟨fun start two => ?_, fun b one => ⟨fun at2 => ?_, fun at3 => ?_, fun at4 => ?_, fun at5 => ?_⟩,
    fun index fields cut eleven header more => ?_, fun two all whole => ?_⟩
  · have next : im.next = some .magic := by simp [Image.next, start]
    exact ⟨fun right => keeps next two (if_pos right), fun wrong => fails next two (if_neg wrong)⟩
  · have next : im.next = some .version := by simp [Image.next, at2]
    subst one
    exact ⟨fun right => keeps next rfl (if_pos (by rw [right])),
      fun wrong => fails next rfl (if_neg fun e => wrong (List.cons.inj e).1)⟩
  · have next : im.next = some .count := by simp [Image.next, at3]
    subst one
    exact ⟨fun few => keeps next rfl (if_pos few), fun many => fails next rfl (if_neg (by omega))⟩
  · have next : im.next = some .speedA := by simp [Image.next, at4]
    subst one
    refine ⟨?_, ?_, fun not0 not1 => fails next rfl ?_⟩
    · rintro rfl
      exact keeps next rfl rfl
    · rintro rfl
      exact keeps next rfl rfl
    · simp [Image.judge, oneByte, speedOfByte_eq_none not0 not1]
  · have next : im.next = some .speedB := by simp [Image.next, at5]
    subst one
    refine ⟨?_, ?_, fun not0 not1 => fails next rfl ?_⟩
    · rintro rfl
      exact keeps next rfl rfl
    · rintro rfl
      exact keeps next rfl rfl
    · simp [Image.judge, oneByte, speedOfByte_eq_none not0 not1]
  · have next := Image.next_entry header more
    subst cut
    have size : (index :: fields).length = ImageField.size .entry := by simp [eleven, ImageField.size]
    refine ⟨fun wrong => fails next size ?_, fun c place read => ⟨fun double => fails next size ?_, fun single => keeps next size ?_⟩⟩
    · rw [Image.judge_entry]
      rcases wrong with elsewhere | unread
      · exact if_neg elsewhere
      · rw [unread]
        split <;> rfl
    · rw [Image.judge_entry, if_pos place, read]
      exact if_pos ((im.duplicate_iff c).2 double)
    · rw [Image.judge_entry, if_pos place, read]
      refine if_neg fun double => ?_
      obtain ⟨d, hd, same⟩ := (im.duplicate_iff c).1 double
      exact single d hd same
  · have next := Image.next_check all whole
    exact ⟨fun right => keeps next two (if_pos right), fun wrong => fails next two (if_neg wrong)⟩

/-! ## Failures of the wires (R194, R199, R201) -/

theorem Loader.waits_iff (l : Loader) : l.waits = true ↔ l.phase = .waitHigh ∨ l.phase = .waitFree := by
  simp [Loader.waits]

theorem timingFits_iff (bound : Option Nat) (since : Nat) : timingFits bound since = true ↔ ∀ k, bound = some k → k ≤ since := by
  cases bound <;> simp [timingFits]

theorem ImageField.size_pos (f : ImageField) : 0 < f.size := by
  cases f <;> decide

theorem Image.refuses_iff (im : Image) (field : List Byte) : im.refuses field = true ↔
    ∃ f, im.next = some f ∧ field.length = f.size ∧ ∃ reason, im.judge f field = .error reason := by
  unfold Image.refuses
  cases im.next with
  | none => simp
  | some f => cases judged : im.judge f field <;> simp [judged]

/-- The moments at which R98 lets the loader lose arbitration. -/
theorem Image.losesAt_iff (im : Image) (offsets : Nat) (field : List Byte) : im.losesAt offsets field = true ↔
    (field = [] ∧ im.received = [] ∧ (offsets = 0 ∨ offsets = 2)
      ∨ offsets = 2 ∧ field = [] ∧ im.next = none
      ∨ offsets = 2 ∧ ∃ f, im.next = some f ∧ field.length = f.size ∧ ∃ reason, im.judge f field = .error reason) := by
  cases field with
  | nil =>
    have never (f : ImageField) : (0 = f.size) = False := eq_false f.size_pos.ne
    simp [Image.losesAt, never]
  | cons b bs => simp [Image.losesAt, Image.refuses_iff]

theorem State.imageLost_of_moment {s : State} (works : s.loader.phase = .transfer) {offsets : Nat} {field : List Byte}
    (loses : s.loader.image.losesAt offsets field = true) : s.imageLost offsets field =
      let offered := s.offerTransfer .arbLost offsets (s.loader.image.received.length + field.length)
      if 8 ≤ s.loader.transfers then offered.loadFails .noDevice
      else
        { offered with
          loader := { offered.loader with phase := .waitFree, image := Image.blank }
          laneA := { offered.laneA with lowSeen := s.elapsed } } :=
  if_pos ⟨works, loses⟩

theorem exec_imageArbLost_released (offsets : Nat) (field : List Byte) {s : State} (released : s.resetAsserted = false) :
    exec (.imageArbLost offsets field) s = .next (s.imageLost offsets field) :=
  next_live released _

/-- Settles O52. -/
theorem imageWireFailures : Obligations.ImageWireFailures := by
  intro s released failed
  refine ⟨fun w works nothing => ?_, fun offsets field works => ?_, fun since offsets extra beyond timed phase => ?_,
    fun since beyond phase timed => ?_⟩
  · have row : s.imageNacked w = (s.offerTransfer (ImageNack.outcome w).1 (ImageNack.outcome w).2 0).loadFails .noDevice :=
      if_pos ⟨works, nothing⟩
    exact ⟨_, (next_live released _).trans (congrArg Host.Outcome.next row), s.offered_loadFails _ _ _ .noDevice⟩
  · intro im moment
    have loses : im.losesAt offsets field = true ↔ moment := im.losesAt_iff offsets field
    have ends (here : moment) := State.imageLost_of_moment works (loses.2 here)
    refine ⟨fun here last => ?_, fun here more => ?_, fun elsewhere => ?_⟩
    · have row : s.imageLost offsets field =
          (s.offerTransfer .arbLost offsets (s.loader.image.received.length + field.length)).loadFails .noDevice :=
        (ends here).trans (if_pos last)
      exact ⟨_, (exec_imageArbLost_released _ _ released).trans (congrArg Host.Outcome.next row), s.offered_loadFails _ _ _ .noDevice⟩
    · have only := s.offerTransfer_only .arbLost offsets (s.loader.image.received.length + field.length)
      obtain ⟨_, _, _, _, _, table⟩ :=
        s.offered_loadFails .arbLost offsets (s.loader.image.received.length + field.length) .noDevice
      refine ⟨_, (exec_imageArbLost_released _ _ released).trans (congrArg Host.Outcome.next
        ((ends here).trans (if_neg (Nat.not_le.2 more)))), rfl, ?_, ?_, table, ?_, only.rest.laneB⟩
      · exact (congrArg Loader.state only.rest.loader :)
      · exact (congrArg Loader.transfers only.rest.loader :)
      · exact congrArg (fun l : Lane => { l with lowSeen := s.elapsed }) only.rest.laneA
    · refine (exec_imageArbLost_released _ _ released).trans (congrArg Host.Outcome.next (if_neg ?_))
      rintro ⟨_, here⟩
      exact elsewhere (loses.1 here)
  · have acts : s.loader.waits = true ∨ s.loader.phase = .transfer ∧ s.loader.image.reached offsets extra = true := by
      rw [Loader.waits_iff, or_assoc]
      exact phase
    have row : s.imageStretched since offsets extra =
        ((s.offerTransfer .stretchTimeout offsets (s.loader.image.received.length + extra)).loadFails .stretchTimeout).updLane .A
          fun l => { l with clockLowFrom := some since } :=
      if_pos ⟨beyond, (timingFits_iff _ _).2 timed, acts⟩
    obtain ⟨state, reason, done, laneA, laneB, table⟩ :=
      s.offered_loadFails .stretchTimeout offsets (s.loader.image.received.length + extra) .stretchTimeout
    exact ⟨_, (next_live released _).trans (congrArg Host.Outcome.next row), state, reason, done,
      congrArg (fun l : Lane => { l with clockLowFrom := some since }) laneA, laneB, table⟩
  · have row : s.imageStuck since = (s.loadFails .noDevice).updLane .A fun l => { l with clockLowFrom := none, dataLowFrom := some since } :=
      if_pos ⟨(Loader.waits_iff _).2 phase, decide_eq_true beyond, (timingFits_iff _ _).2 timed⟩
    exact ⟨_, (next_live released _).trans (congrArg Host.Outcome.next row), rfl, rfl, rfl, rfl, rfl, rfl⟩

/-! ## Transfers begin, and a valid image is applied (R197, R199, R200) -/

theorem readItems_bits (n : Nat) : ((readItems n).map WireItem.bits).sum = 9 * n := by
  cases n with
  | zero => rfl
  | succ n =>
    simp only [readItems, List.map_append, List.map_replicate, WireItem.bits, List.sum_append, List.sum_replicate, List.map_cons,
      List.map_nil, List.sum_cons, List.sum_nil, smul_eq_mul]
    omega

/-- Nine bit periods for each of the four bytes sent and the n bytes read (R197). -/
theorem imageNs_eq (p : Straps) (n : Nat) : imageNs p n = (4 + n) * 90000 := by
  have bits : ((imageWires p n).map WireItem.bits).sum = 9 * (4 + n) := by
    simp only [imageWires, attemptWires, imageCarried, Carried.wires, List.intersperse_singleton, List.flatten_cons,
      List.flatten_nil, List.append_nil, List.map_append, List.sum_append, readItems_bits, List.map_cons, List.map_nil,
      List.sum_cons, List.sum_nil, WireItem.bits]
    omega
  rw [imageNs, busNs, bits, imageSpeed, Speed.periodNs]
  omega

/-- An offer to a trace that is OFF changes nothing (R202). -/
theorem State.offer_off {s : State} (off : s.trace.state = .off) (r : TraceRecord) : s.offer r = s := by
  unfold State.offer
  rw [Trace.offer_dropped (.inl off)]

theorem State.offerTransfer_off {s : State} (off : s.trace.state = .off) (st : CStatus) (out inn : Nat) :
    s.offerTransfer st out inn = s := by
  unfold State.offerTransfer
  split
  · exact State.offer_off off _
  · rfl

/-- Settles O53. -/
theorem imageTransfersBeginAndApply : Obligations.ImageTransfersBeginAndApply := by
  refine ⟨fun s mode works => ?_, fun p n => imageNs_eq p _, fun s released => ?_, fun s released works off whole all => ?_⟩
  · simp [State.wireSpeed, State.lane, mode, works, imageSpeed]
  · intro begun
    refine ⟨fun since phase reached high => ?_, fun free => ?_⟩
    · exact (next_live released _).trans (congrArg Host.Outcome.next
        (if_pos ⟨(Loader.waits_iff _).2 phase, reached, decide_eq_true high⟩))
    · exact (next_live released _).trans (congrArg Host.Outcome.next (if_pos free))
  · have row : s.imageSucceeds = s.loadApplies := by
      refine (if_pos ⟨works, Image.next_none all whole⟩).trans ?_
      rw [State.offerTransfer_off off]
    refine ⟨_, (next_live released _).trans (congrArg Host.Outcome.next row), fun t => ?_, rfl, rfl, rfl, rfl, rfl, rfl, rfl⟩
    rw [State.loadApplies_entry]
    rfl

end Sys2Proof.Machine
end

section
/-! PROOFS. The exact end of a run (R5, R57, R101 to R103): each part of it on its own, and then all of it. -/

namespace Sys2Proof.Machine

/-! ## The trace offers (R103, R160) -/

theorem State.offerAll_cons (s : State) (r : TraceRecord) (rs : List TraceRecord) :
    s.offerAll (r :: rs) = (s.offer r).offerAll rs := rfl

theorem State.offerAll_trace (s : State) (rs : List TraceRecord) :
    (s.offerAll rs).trace = rs.foldl (fun t r => (t.offer r).1) s.trace := by
  induction rs generalizing s with
  | nil => rfl
  | cons r rs ih => rw [State.offerAll_cons, ih, State.offer_trace, List.foldl_cons]

theorem State.offerAll_host (s : State) (rs : List TraceRecord) (h : HostId) :
    (s.offerAll rs).host h = HostCtx.afterOffers h s.stamp rs s.trace (s.host h) := by
  induction rs generalizing s with
  | nil => rfl
  | cons r rs ih =>
    rw [State.offerAll_cons, ih, State.offer_trace, State.offer_host, (s.offer_only r).rest.stamp]
    rfl

/-! ## The statuses (R5) -/

/-- The statuses of these elements, each with its place, go to the Target Table in order. -/
def State.takeStatuses (s : State) (r : Run) (results : List ElemResult) (es : List (SubEntry × Nat)) : State :=
  es.foldl (fun s (e, k) =>
    s.applyStatus e.desc.target (resultAt results k).status (decide (e.desc.kind = .probe)) (r.policy k).threshold) s

theorem State.takeStatuses_cons (s : State) (r : Run) (results : List ElemResult) (e : SubEntry) (k : Nat)
    (es : List (SubEntry × Nat)) : s.takeStatuses r results ((e, k) :: es) =
      (s.applyStatus e.desc.target (resultAt results k).status (decide (e.desc.kind = .probe)) (r.policy k).threshold).takeStatuses
        r results es := rfl

theorem State.takeStatuses_host (s : State) (r : Run) (results : List ElemResult) (es : List (SubEntry × Nat)) (h : HostId) :
    (s.takeStatuses r results es).host h = HostCtx.afterStatuses h r results s.stamp es s.entry (s.host h) := by
  induction es generalizing s with
  | nil => rfl
  | cons e es ih =>
    obtain ⟨e, k⟩ := e
    have entries := funext (s.applyStatus_entry e.desc.target (resultAt results k).status (decide (e.desc.kind = .probe))
      (r.policy k).threshold)
    rw [State.takeStatuses_cons, ih, (State.applyStatus_only _ _ _ _ _).rest.stamp, entries, State.applyStatus_host]
    rfl

/-- What these statuses make of entry v, which is d before them. -/
def TableEntry.afterStatuses (v : TargetId) (r : Run) (results : List ElemResult) (es : List (SubEntry × Nat)) (d : TableEntry) :
    TableEntry :=
  es.foldl (fun (d : TableEntry) (e, k) =>
    if e.desc.target = v then
      d.tallied (resultAt results k).status (decide (e.desc.kind = .probe)) (r.policy k).threshold
    else d) d

theorem State.takeStatuses_entry (s : State) (r : Run) (results : List ElemResult) (es : List (SubEntry × Nat)) (v : TargetId) :
    (s.takeStatuses r results es).entry v = (s.entry v).afterStatuses v r results es := by
  induction es generalizing s with
  | nil => rfl
  | cons e es ih =>
    obtain ⟨e, k⟩ := e
    rw [State.takeStatuses_cons, ih, State.applyStatus_entry, TableEntry.afterStatuses, TableEntry.afterStatuses, List.foldl_cons]
    congr 1
    by_cases same : e.desc.target = v
    · simp [same]
    · simp [same, Ne.symm same]

theorem TableEntry.tallied_cfg (e : TableEntry) (st : CStatus) (probe : Bool) (threshold : Nat) :
    (e.tallied st probe threshold).cfg = e.cfg := by
  cases st <;> rfl

theorem TableEntry.tallied_lease (e : TableEntry) (st : CStatus) (probe : Bool) (threshold : Nat) :
    (e.tallied st probe threshold).lease = e.lease := by
  cases st <;> rfl

theorem TableEntry.afterStatuses_kept (v : TargetId) (r : Run) (results : List ElemResult) (es : List (SubEntry × Nat))
    (d : TableEntry) : (d.afterStatuses v r results es).cfg = d.cfg ∧ (d.afterStatuses v r results es).lease = d.lease := by
  induction es generalizing d with
  | nil => exact ⟨rfl, rfl⟩
  | cons e es ih =>
    obtain ⟨cfg, lease⟩ := ih (if e.1.desc.target = v then
      d.tallied (resultAt results e.2).status (decide (e.1.desc.kind = .probe)) (r.policy e.2).threshold else d)
    refine ⟨cfg.trans ?_, lease.trans ?_⟩
    · split
      · exact d.tallied_cfg _ _ _
      · rfl
    · split
      · exact d.tallied_lease _ _ _
      · rfl

theorem State.takeStatuses_only (s : State) (r : Run) (results : List ElemResult) (es : List SubEntry) :
    s.TablesOnly (s.takeStatuses r results es.zipIdx) :=
  s.applyResults_only { r with results := results } es

/-! ## The leases (R54, R57) -/

/-- The Lease Unit acts on each of these targets at the end of a run of host g. -/
def State.endLeases (s : State) (g : HostId) (ts : List TargetId) : State := ts.foldl (fun s t => s.leaseRunEnd g t) s

theorem State.endLeases_cons (s : State) (g : HostId) (t : TargetId) (ts : List TargetId) :
    s.endLeases g (t :: ts) = (s.leaseRunEnd g t).endLeases g ts := rfl

theorem State.endLeases_only (s : State) (g : HostId) (ts : List TargetId) : s.TablesOnly (s.endLeases g ts) :=
  TablesOnly.foldl _ (fun s t => s.leaseRunEnd_only g t) _ _

theorem State.endLeases_entry {ts : List TargetId} (once : ts.Nodup) (s : State) (g : HostId) (v : TargetId) :
    (s.endLeases g ts).entry v =
      if v ∈ ts then { s.entry v with lease := (s.entry v).lease.afterRun g s.elapsed (s.touchedByOther v) } else s.entry v := by
  induction ts generalizing s with
  | nil => rfl
  | cons t ts ih =>
    obtain ⟨fresh, once⟩ := List.nodup_cons.1 once
    have only := s.leaseRunEnd_only g t
    rw [State.endLeases_cons, ih once, State.leaseRunEnd_entry, only.rest.elapsed, funext (only.touchedByOther v)]
    by_cases same : v = t
    · subst same
      simp [fresh]
    · simp [same]

/-- Host h after the Lease Unit has acted on these targets, with their leases `before` and after. -/
def HostCtx.afterLeases (c : HostCtx) (h g : HostId) (ts : List TargetId) (before after : TargetId → Lease) (now : Stamp) : HostCtx :=
  ts.foldl (fun d t => d.afterLeaseRun h g t (before t) (after t) now) c

theorem HostCtx.afterLeases_congr {ts : List TargetId} {b b' a a' : TargetId → Lease} (before : ∀ t ∈ ts, b t = b' t)
    (after : ∀ t ∈ ts, a t = a' t) (c : HostCtx) (h g : HostId) (now : Stamp) :
    c.afterLeases h g ts b a now = c.afterLeases h g ts b' a' now := by
  refine List.foldl_ext _ _ c fun d t ht => ?_
  rw [before t ht, after t ht]

theorem State.endLeases_host {ts : List TargetId} (once : ts.Nodup) (s : State) (g h : HostId) :
    (s.endLeases g ts).host h = (s.host h).afterLeases h g ts (fun t => (s.entry t).lease)
      (fun t => (s.entry t).lease.afterRun g s.elapsed (s.touchedByOther t)) s.stamp := by
  induction ts generalizing s with
  | nil => rfl
  | cons t ts ih =>
    obtain ⟨fresh, once⟩ := List.nodup_cons.1 once
    have only := s.leaseRunEnd_only g t
    have other (v : TargetId) (hv : v ∈ ts) : (s.leaseRunEnd g t).entry v = s.entry v := by
      rw [State.leaseRunEnd_entry, if_neg]
      rintro rfl
      exact fresh hv
    rw [State.endLeases_cons, ih once, only.rest.stamp, State.leaseRunEnd_host]
    refine HostCtx.afterLeases_congr (fun v hv => ?_) (fun v hv => ?_) _ h g _
    · rw [other v hv]
    · rw [other v hv, only.rest.elapsed, funext (only.touchedByOther v)]

/-- The targets of a run, each once. -/
theorem runTargets_spec (es : List SubEntry) :
    (runTargets es).Nodup ∧ ∀ v, v ∈ runTargets es ↔ ∃ e ∈ es, e.desc.target = v := by
  have collect : ∀ (ts seen : List TargetId), seen.Nodup →
      (ts.foldl (fun seen t => if t ∈ seen then seen else seen ++ [t]) seen).Nodup
        ∧ ∀ v, v ∈ ts.foldl (fun seen t => if t ∈ seen then seen else seen ++ [t]) seen ↔ v ∈ seen ∨ v ∈ ts := by
    intro ts
    induction ts with
    | nil => exact fun seen once => ⟨once, by simp⟩
    | cons t ts ih =>
      intro seen once
      rw [List.foldl_cons]
      by_cases old : t ∈ seen
      · obtain ⟨nodup, mem⟩ := ih seen once
        rw [if_pos old]
        refine ⟨nodup, fun v => (mem v).trans ?_⟩
        rw [List.mem_cons]
        constructor
        · exact fun m => m.imp id .inr
        · rintro (m | rfl | m)
          · exact .inl m
          · exact .inl old
          · exact .inr m
      · have apart : ∀ a ∈ seen, ∀ b ∈ [t], a ≠ b := by
          rintro a ha b hb rfl
          exact old (List.mem_singleton.1 hb ▸ ha)
        obtain ⟨nodup, mem⟩ := ih (seen ++ [t]) (List.nodup_append.2 ⟨once, List.nodup_singleton t, apart⟩)
        rw [if_neg old]
        refine ⟨nodup, fun v => (mem v).trans ?_⟩
        simp [or_assoc]
  obtain ⟨nodup, mem⟩ := collect (es.map (·.desc.target)) [] List.nodup_nil
  exact ⟨nodup, fun v => (mem v).trans (by simp)⟩

end Sys2Proof.Machine
end

section
/-! PROOFS. The exact end of a run, all of it: from a state that is `s` but for notices that have come to its hosts since, the end of the
run leaves what `runEnded` and `hostAfterRun` say of s (R5, R57, R101 to R103). -/

namespace Sys2Proof.Machine

/-! ## A state but for its notices -/

/-- The host's work, records and flags of the pause are the same. -/
structure HostCtx.SameWork (c d : HostCtx) : Prop where
  sq : d.sq = c.sq
  cq : d.cq = c.cq
  credits : d.credits = c.credits
  discardedRunning : d.discardedRunning = c.discardedRunning
  paused : d.paused = c.paused
  stopOnFault : d.stopOnFault = c.stopOnFault

theorem HostCtx.SameWork.refl (c : HostCtx) : c.SameWork c := ⟨rfl, rfl, rfl, rfl, rfl, rfl⟩

theorem HostCtx.SameWork.runningOn {c d : HostCtx} (same : c.SameWork d) (x : LaneId) : d.runningOn x = c.runningOn x := by
  rw [HostCtx.runningOn, same.sq, HostCtx.runningOn]

theorem HostCtx.sameWork_takeNotice (c : HostCtx) (k : NoticeKind) (subj : Subject) (d : Byte) (now : Stamp) :
    c.SameWork (c.takeNotice k subj d now) := by
  rcases c.takeNotice_cases k subj d now with h | ⟨_, _, h⟩ | ⟨_, _, h⟩ | h <;> rw [h] <;> exact ⟨rfl, rfl, rfl, rfl, rfl, rfl⟩

/-- m is s but for the notices its hosts have, its trace and lane y. -/
structure State.Noted (s m : State) (y : LaneId) : Prop where
  work : ∀ g, (s.host g).SameWork (m.host g)
  entry : ∀ v, m.entry v = s.entry v
  elapsed : m.elapsed = s.elapsed
  lane : ∀ z, z ≠ y → m.lane z = s.lane z

theorem State.Noted.refl (s : State) (y : LaneId) : s.Noted s y := ⟨fun _ => .refl _, fun _ => rfl, rfl, fun _ _ => rfl⟩

theorem State.Noted.stamp {s m : State} {y : LaneId} (noted : s.Noted m y) : m.stamp = s.stamp := by
  rw [State.stamp, noted.elapsed, State.stamp]

/-! ## The parts of the end of a run -/

/-- The lane and the run's own host at the end of its run (R101, R102). -/
def State.runLeaves (m : State) (y : LaneId) (r : Run) (results : List ElemResult) (after : Lane → Lane) : State :=
  (m.updLane y fun l => after { l with run := none }).updHost r.host fun c => c.endRun y { r with results := results } m.stamp

/-- The state whose table has taken the statuses of a run, after the search that follows (R5, R58). -/
def State.runCounts (m : State) (y : LaneId) (r : Run) (results : List ElemResult) (after : Lane → Lane) (fault : State → State) : State :=
  fault ((m.runLeaves y r results after).takeStatuses r results ((m.host r.host).runningOn y).zipIdx)

theorem State.endRun_eq (m : State) (y : LaneId) (r : Run) (results : List ElemResult) (after : Lane → Lane) (fault : State → State) :
    m.endRun y { r with results := results } after fault =
      ((m.runCounts y r results after fault).endLeases r.host (runTargets ((m.host r.host).runningOn y))).offerAll
        (((m.host r.host).runningOn y).zipIdx.map fun (e, k) => elementRecord y r results m.stamp e k) := rfl

theorem HostCtx.endRun_eq (c : HostCtx) (y : LaneId) (r : Run) (results : List ElemResult) (now : Stamp) :
    c.endRun y { r with results := results } now = c.afterOwnRun y r results (c.runningOn y) now := by
  have left : (fun e : SubEntry => !decide (e.state = .running y)) = fun e => decide (e.state ≠ .running y) := by
    funext e
    simp
  rw [HostCtx.endRun, HostCtx.afterOwnRun, left]
  rfl

theorem State.runLeaves_host (m : State) (y : LaneId) (r : Run) (results : List ElemResult) (after : Lane → Lane) (g : HostId) :
    (m.runLeaves y r results after).host g =
      if g = r.host then (m.host g).afterOwnRun y r results ((m.host r.host).runningOn y) m.stamp else m.host g := by
  rw [State.runLeaves, State.updHost_host]
  by_cases own : g = r.host
  · subst own
    rw [if_pos rfl, if_pos rfl, HostCtx.endRun_eq]
    simp
  · rw [if_neg own, if_neg own]
    simp

theorem HostCtx.afterOwnRun_sq (c : HostCtx) (y : LaneId) (r : Run) (results : List ElemResult) (es : List SubEntry) (now : Stamp) :
    (c.afterOwnRun y r results es now).sq = c.sq.filter fun e => decide (e.state ≠ .running y) := by
  rw [HostCtx.afterOwnRun]
  split
  · rfl
  · rw [HostCtx.appendRecords_sq]

/-- The ended run touches nothing; every other run touches what it did (R51). -/
theorem State.runLeaves_touchedByOther {s m : State} {y : LaneId} (noted : s.Noted m y) {r : Run} {results : List ElemResult}
    {after : Lane → Lane} (cleared : ∀ l : Lane, l.run = none → (after l).run = none) (v : TargetId) :
    (m.runLeaves y r results after).touchedByOther v = (s.updLane y fun l => { l with run := none }).touchedByOther v := by
  funext h
  refine Bool.eq_iff_iff.2 ?_
  rw [State.touchedByOther_iff, State.touchedByOther_iff]
  refine exists_congr fun z => exists_congr fun q => ?_
  by_cases same : z = y
  · subst same
    have left : ((m.runLeaves z r results after).lane z).run = none := by
      simp [State.runLeaves, cleared]
    rw [left]
    simp
  · have lane : (m.runLeaves y r results after).lane z = s.lane z := by
      simp [State.runLeaves, State.updLane_lane_ne m _ same, noted.lane z same]
    have running (e : SubEntry) : (e ∈ ((m.runLeaves y r results after).host q.host).sq ∧ e.state = .running z)
        ↔ e ∈ (s.host q.host).sq ∧ e.state = .running z := by
      rw [State.runLeaves_host]
      split
      · rw [HostCtx.afterOwnRun_sq, (noted.work _).sq, List.mem_filter]
        refine ⟨fun ⟨⟨mem, _⟩, state⟩ => ⟨mem, state⟩, fun ⟨mem, state⟩ => ⟨⟨mem, ?_⟩, state⟩⟩
        rw [state]
        simpa using same
      · rw [(noted.work _).sq]
    rw [lane, State.updLane_lane_ne s _ same, State.updLane_host]
    refine and_congr_right fun _ => and_congr_right fun _ => exists_congr fun e => ?_
    rw [← and_assoc, ← and_assoc, running]

section
variable {s m : State} {y : LaneId} {r : Run} {results : List ElemResult} {after : Lane → Lane} {fault : State → State}

theorem State.runCounts_only (only : ∀ t : State, t.HostsOnly (fault t)) :
    (m.runLeaves y r results after).TablesOnly (m.runCounts y r results after fault) :=
  (State.takeStatuses_only _ r results _).trans (only _).tables

theorem State.runLeaves_entry (v : TargetId) : (m.runLeaves y r results after).entry v = m.entry v := by
  simp [State.runLeaves]

theorem State.runCounts_entry (noted : s.Noted m y) (only : ∀ t : State, t.HostsOnly (fault t)) (v : TargetId) :
    (m.runCounts y r results after fault).entry v =
      (s.entry v).afterStatuses v r results ((s.host r.host).runningOn y).zipIdx := by
  rw [State.runCounts, (only _).rest.entry, State.takeStatuses_entry, State.runLeaves_entry, noted.entry,
    (noted.work r.host).runningOn]

theorem State.runLeaves_elapsed : (m.runLeaves y r results after).elapsed = m.elapsed := by
  simp [State.runLeaves]

theorem State.runLeaves_stamp : (m.runLeaves y r results after).stamp = m.stamp := by
  rw [State.stamp, State.runLeaves_elapsed, State.stamp]

/-- The lease of a target after the end of the run, from the lease before it (R54, R57). -/
theorem State.runCounts_lease (noted : s.Noted m y) (only : ∀ t : State, t.HostsOnly (fault t))
    (cleared : ∀ l : Lane, l.run = none → (after l).run = none) (v : TargetId) :
    ((m.runCounts y r results after fault).entry v).lease.afterRun r.host (m.runCounts y r results after fault).elapsed
        ((m.runCounts y r results after fault).touchedByOther v) =
      (s.entry v).lease.afterRun r.host s.elapsed fun g =>
        (s.updLane y fun l => { l with run := none }).touchedByOther v g := by
  have counts := State.runCounts_only (m := m) (y := y) (r := r) (results := results) (after := after) only
  rw [State.runCounts_entry noted only, (TableEntry.afterStatuses_kept _ _ _ _ _).2, counts.rest.elapsed, State.runLeaves_elapsed,
    noted.elapsed, funext (counts.touchedByOther v), State.runLeaves_touchedByOther noted cleared]

/-- Every host after the end of a run. -/
theorem State.endRun_host (noted : s.Noted m y) (only : ∀ t : State, t.HostsOnly (fault t))
    (cleared : ∀ l : Lane, l.run = none → (after l).run = none) {search : HostCtx → HostCtx}
    (searched : ∀ t : State, (∀ v, (t.entry v).cfg = (s.entry v).cfg) → t.stamp = s.stamp → ∀ g, (fault t).host g = search (t.host g))
    (h : HostId) :
    (m.endRun y { r with results := results } after fault).host h = s.hostAfterRun y r results m.trace search h (m.host h) := by
  have counts := State.runCounts_only (m := m) (y := y) (r := r) (results := results) (after := after) only
  have leases := State.endLeases_only (m.runCounts y r results after fault) r.host (runTargets ((m.host r.host).runningOn y))
  have es := (noted.work r.host).runningOn y
  have entries : (m.runLeaves y r results after).entry = s.entry := funext fun v => State.runLeaves_entry v |>.trans (noted.entry v)
  have cfgs (v : TargetId) : (((m.runLeaves y r results after).takeStatuses r results ((s.host r.host).runningOn y).zipIdx).entry v).cfg
      = (s.entry v).cfg := by
    rw [State.takeStatuses_entry, (TableEntry.afterStatuses_kept _ _ _ _ _).1, entries]
  have now : ((m.runLeaves y r results after).takeStatuses r results ((s.host r.host).runningOn y).zipIdx).stamp = s.stamp := by
    rw [(State.takeStatuses_only _ r results _).rest.stamp, State.runLeaves_stamp, noted.stamp]
  have counted : (m.runCounts y r results after fault).host h =
      search (HostCtx.afterStatuses h r results s.stamp ((s.host r.host).runningOn y).zipIdx s.entry
        (if h = r.host then (m.host h).afterOwnRun y r results ((s.host r.host).runningOn y) s.stamp else m.host h)) := by
    rw [State.runCounts, es, searched _ cfgs now, State.takeStatuses_host, entries, State.runLeaves_stamp, State.runLeaves_host, es,
      noted.stamp]
  have stamp : (m.runCounts y r results after fault).stamp = s.stamp := by
    rw [counts.rest.stamp, State.runLeaves_stamp, noted.stamp]
  have trace : ((m.runCounts y r results after fault).endLeases r.host (runTargets ((m.host r.host).runningOn y))).trace = m.trace := by
    rw [leases.rest.trace, counts.rest.trace]
    simp [State.runLeaves]
  rw [State.endRun_eq, State.offerAll_host, leases.rest.stamp, trace, State.endLeases_host (runTargets_spec _).1, counted, stamp, es,
    noted.stamp]
  refine congrArg (HostCtx.afterOffers h s.stamp _ m.trace) (HostCtx.afterLeases_congr (fun t _ => ?_) (fun t _ => ?_) _ _ _ _)
  · rw [State.runCounts_entry noted only, (TableEntry.afterStatuses_kept _ _ _ _ _).2]
  · exact State.runCounts_lease noted only cleared t

end

/-! ## What the end of a run leaves of its own host and of the table -/

theorem HostCtx.appendRecords_discardedRunning (c : HostCtx) (recs : List Completion) :
    (c.appendRecords recs).discardedRunning = c.discardedRunning := by
  unfold HostCtx.appendRecords
  split <;> rfl

theorem HostCtx.takeNotice_discardedRunning (c : HostCtx) (k : NoticeKind) (subj : Subject) (d : Byte) (now : Stamp) :
    (c.takeNotice k subj d now).discardedRunning = c.discardedRunning :=
  (c.sameWork_takeNotice k subj d now).discardedRunning

theorem HostCtx.endWork_discardedRunning (c : HostCtx) (hit : List SubEntry → Bool) (st : SubEntry → CStatus) (now : Stamp) :
    (c.endWork hit st now).discardedRunning = c.discardedRunning := by
  rw [HostCtx.endWork, HostCtx.appendRecords_discardedRunning]

/-- Records that are appended stand behind those that were there. -/
theorem HostCtx.appendRecords_cq_grows (c : HostCtx) (recs : List Completion) : ∃ more, (c.appendRecords recs).cq = c.cq ++ more := by
  unfold HostCtx.appendRecords
  split
  · exact ⟨_, rfl⟩
  · exact ⟨_, rfl⟩

theorem HostCtx.appendRecords_paused {c : HostCtx} (paused : c.paused = true) (recs : List Completion) :
    (c.appendRecords recs).paused = true := by
  unfold HostCtx.appendRecords
  split
  · rfl
  · exact paused

theorem hostLaw_cq (front : List Completion) : HostLaw fun c => ∃ more, c.cq = front ++ more := by
  refine ⟨fun c k subj d now before => ?_, fun c hit st now ⟨more, before⟩ => ?_⟩
  · rw [HostCtx.takeNotice_cq]
    exact before
  · obtain ⟨added, after⟩ := HostCtx.appendRecords_cq_grows
      { c with
        sq := ((groups c.sq).filter fun g => !endsGroup hit g).flatten
        chain := if ((groups c.sq).filter (endsGroup hit)).any isOpen then none else c.chain }
      (((groups c.sq).filter (endsGroup hit)).flatten.map fun e => recordWithoutRun e (st e) now)
    refine ⟨more ++ added, after.trans ?_⟩
    rw [← List.append_assoc]
    exact congrArg (· ++ added) before

theorem hostLaw_paused (p : Prop) : HostLaw fun c => p → c.paused = true := by
  refine ⟨fun c k subj d now before held => ?_, fun c hit st now before held => ?_⟩
  · rw [(c.sameWork_takeNotice k subj d now).paused]
    exact before held
  · rw [HostCtx.endWork]
    exact HostCtx.appendRecords_paused (by exact before held) _

/-- The two records of a pause do not depend on the queue the entries have left, nor on notices. -/
theorem HostCtx.appendRecords_sameWork {c d : HostCtx} (cq : d.cq = c.cq) (paused : d.paused = c.paused)
    (stopOnFault : d.stopOnFault = c.stopOnFault) (recs : List Completion) :
    (d.appendRecords recs).cq = (c.appendRecords recs).cq ∧ (d.appendRecords recs).paused = (c.appendRecords recs).paused := by
  unfold HostCtx.appendRecords
  rw [cq, paused, stopOnFault]
  split
  · exact ⟨rfl, rfl⟩
  · exact ⟨rfl, rfl⟩

theorem HostCtx.afterOwnRun_of_live {r : Run} (live : r.discarded = false) (c : HostCtx) (y : LaneId) (results : List ElemResult)
    (es : List SubEntry) (now : Stamp) : c.afterOwnRun y r results es now =
      HostCtx.appendRecords { c with sq := c.sq.filter fun (e : SubEntry) => decide (e.state ≠ WorkState.running y) }
        (es.zipIdx.map fun (e, k) => runRecord { r with results := results } now e k) :=
  if_neg (by simp [live])

theorem HostCtx.afterOwnRun_of_discarded {r : Run} (discarded : r.discarded = true) (c : HostCtx) (y : LaneId) (results : List ElemResult)
    (es : List SubEntry) (now : Stamp) : c.afterOwnRun y r results es now =
      { c with
        sq := c.sq.filter fun (e : SubEntry) => decide (e.state ≠ WorkState.running y), credits := c.credits + es.length
        discardedRunning := c.discardedRunning - es.length } :=
  if_pos discarded

section
variable {s m : State} {y : LaneId} {r : Run} {results : List ElemResult} {after : Lane → Lane} {fault : State → State}

/-- What the end of a run leaves, from the state that its records were offered to. -/
theorem State.endRun_runEnded (noted : s.Noted m y) (only : ∀ t : State, t.HostsOnly (fault t))
    (cleared : ∀ l : Lane, l.run = none → (after l).run = none) :
    s.runEnded (m.endRun y { r with results := results } after fault) y r results m.trace := by
  have moves : (m.runLeaves y r results after).RecordsOnly (m.endRun y { r with results := results } after fault) :=
    m.endRun_only y { r with results := results } after fault only
  have counts := State.runCounts_only (m := m) (y := y) (r := r) (results := results) (after := after) only
  have leases := State.endLeases_only (m.runCounts y r results after fault) r.host (runTargets ((m.host r.host).runningOn y))
  have work := noted.work r.host
  have es := work.runningOn y
  have keeps {P : HostCtx → Prop} (law : HostLaw P)
      (own : P ((m.host r.host).afterOwnRun y r results ((s.host r.host).runningOn y) s.stamp)) :
      P ((m.endRun y { r with results := results } after fault).host r.host) := by
    refine moves.keeps P law r.host ?_
    rw [State.runLeaves_host, if_pos rfl, es, noted.stamp]
    exact own
  refine ⟨?_, fun z other => ?_, fun e he running => ?_, fun live => ⟨?_, ?_, ?_, ?_⟩, fun discarded => ⟨?_, ?_⟩, fun v => ?_, ?_⟩
  · rw [m.endRun_lane y _ after fault only]
    exact cleared _ rfl
  · rw [m.endRun_lane_ne other _ after fault only, noted.lane z other]
  · have gone : ((m.endRun y { r with results := results } after fault).host r.host).runningOn y = [] := by
      rw [moves.keeps (fun c => c.runningOn y = []) (hostLaw_fixed (·.runningOn y) _ (by simp) (by simp)) r.host]
      rw [State.runLeaves_host, if_pos rfl, HostCtx.runningOn, HostCtx.afterOwnRun_sq, List.filter_filter, List.filter_eq_nil_iff]
      intro e _
      simp
    have kept : e ∈ ((m.endRun y { r with results := results } after fault).host r.host).runningOn y :=
      List.mem_filter.2 ⟨he, by simpa using running⟩
    rw [gone] at kept
    exact absurd kept (by simp)
  · refine keeps (hostLaw_cq _) ⟨[], ?_⟩
    rw [HostCtx.afterOwnRun_of_live live, List.append_nil]
    exact (HostCtx.appendRecords_sameWork (by exact work.cq) (by exact work.paused) (by exact work.stopOnFault) _).1
  · refine keeps (hostLaw_fixed (·.credits) _ (by simp) (by simp)) ?_
    rw [HostCtx.afterOwnRun_of_live live, HostCtx.appendRecords_credits]
    exact work.credits
  · refine keeps (hostLaw_paused _) fun paused => ?_
    rw [HostCtx.afterOwnRun_of_live live]
    refine Eq.trans ?_ paused
    exact (HostCtx.appendRecords_sameWork (by exact work.cq) (by exact work.paused) (by exact work.stopOnFault) _).2
  · refine keeps (hostLaw_fixed (·.discardedRunning) _ HostCtx.takeNotice_discardedRunning HostCtx.endWork_discardedRunning) ?_
    rw [HostCtx.afterOwnRun_of_live live, HostCtx.appendRecords_discardedRunning]
    exact work.discardedRunning
  · refine keeps (hostLaw_fixed (·.credits) _ (by simp) (by simp)) ?_
    rw [HostCtx.afterOwnRun_of_discarded discarded]
    exact congrArg (· + _) work.credits
  · refine keeps (hostLaw_fixed (·.discardedRunning) _ HostCtx.takeNotice_discardedRunning HostCtx.endWork_discardedRunning) ?_
    rw [HostCtx.afterOwnRun_of_discarded discarded]
    exact congrArg (· - _) work.discardedRunning
  · have entry : (m.endRun y { r with results := results } after fault).entry v =
        ((m.runCounts y r results after fault).endLeases r.host (runTargets ((s.host r.host).runningOn y))).entry v := by
      rw [State.endRun_eq, State.entry, State.offerAll_table, State.entry, es]
    have counted := State.runCounts_entry (r := r) (results := results) (after := after) noted only v
    have kept := TableEntry.afterStatuses_kept v r results ((s.host r.host).runningOn y).zipIdx (s.entry v)
    have touched := (runTargets_spec ((s.host r.host).runningOn y)).2 v
    rw [entry, State.endLeases_entry (runTargets_spec _).1]
    by_cases mem : v ∈ runTargets ((s.host r.host).runningOn y)
    · rw [if_pos mem, if_pos (touched.1 mem), State.runCounts_lease noted only cleared, counted]
      exact ⟨rfl, rfl, kept.1, rfl⟩
    · rw [if_neg mem, if_neg fun names => mem (touched.2 names), counted]
      exact ⟨rfl, rfl, kept.1, kept.2⟩
  · have trace : ((m.runCounts y r results after fault).endLeases r.host (runTargets ((m.host r.host).runningOn y))).trace = m.trace := by
      rw [leases.rest.trace, counts.rest.trace]
      simp [State.runLeaves]
    rw [State.endRun_eq, State.offerAll_trace, trace, es, List.foldl_map, noted.stamp]

end

/-- A run that ends on its own attempt (R94 to R100). -/
theorem State.endAttempt_runDone (s : State) (y : LaneId) (r : Run) (results : List ElemResult) {after : Lane → Lane}
    (cleared : ∀ l : Lane, l.run = none → (after l).run = none) : s.runDone (s.endAttempt y r results after) y r results :=
  ⟨State.endRun_runEnded (.refl s y) id_only cleared,
    State.endRun_host (.refl s y) id_only cleared fun _ _ _ _ => rfl⟩

end Sys2Proof.Machine
end

section
/-! PROOFS. How attempts end: with success, at a NACK, at a loss of arbitration and at a stretch timeout (R92 to R100, R107). -/

namespace Sys2Proof.Machine

/-! ## The run on the wires -/

theorem State.onWires_of_run {s : State} {y : LaneId} {r : Run} (mode : (s.lane y).mode = .running) (run : (s.lane y).run = some r) :
    s.onWires y = some (r, (s.host r.host).runningOn y) := by
  simp [State.onWires, run, mode, State.runEntries]

theorem readsFit_iff (es : List SubEntry) (reads : List (List Byte)) :
    readsFit es reads = true ↔ reads.map List.length = es.map fun e => e.desc.readLen :=
  decide_eq_true_iff

theorem State.elementAt_of_run {s : State} {y : LaneId} {r : Run} (mode : (s.lane y).mode = .running) (run : (s.lane y).run = some r)
    {k : Nat} {e : SubEntry} (here : ((s.host r.host).runningOn y)[k]? = some e) {done : List (List Byte)}
    (reads : done.map List.length = (((s.host r.host).runningOn y).take k).map fun e => e.desc.readLen) :
    s.elementAt y k done = some (r, (s.host r.host).runningOn y, e) := by
  simp [State.elementAt, State.onWires_of_run mode run, here, (readsFit_iff _ _).2 reads]

theorem State.visitOn_of_running {s : State} {y : LaneId} (mode : (s.lane y).mode = .running) : s.visitOn y = none := by
  simp [State.visitOn, mode]

theorem Lane.toIdle_run (l : Lane) : l.toIdle.run = l.run := rfl
theorem Lane.toForeign_run (l : Lane) (now : Nat) : (l.toForeign now).run = l.run := rfl
theorem Lane.toClosing_run (l : Lane) (since : Nat) : (l.toClosing since).run = l.run := rfl

/-- The lane at the end of an attempt after which the data line reads high or low. -/
theorem Lane.leftBy_run (dataLow : Bool) (now : Nat) (l : Lane) (none_ : l.run = none) :
    ((if dataLow then fun l : Lane => l.toForeign now else Lane.toIdle) l).run = none := by
  cases dataLow
  · exact (l.toIdle_run).trans none_
  · exact (l.toForeign_run now).trans none_

theorem Lane.leftBy_mode (dataLow : Bool) (now : Nat) (l : Lane) :
    ((if dataLow then fun l : Lane => l.toForeign now else Lane.toIdle) l).mode = if dataLow then .foreign else .idle := by
  cases dataLow <;> rfl

theorem State.endAttempt_lane (s : State) (y : LaneId) (r : Run) (results : List ElemResult) (after : Lane → Lane) :
    (s.endAttempt y r results after).lane y = after { s.lane y with run := none } :=
  s.endRun_lane y { r with results := results } after id id_only

/-! ## Success (R94) -/

/-- Settles O38. -/
theorem successfulAttemptEndsTheRun : Obligations.SuccessfulAttemptEndsTheRun := by
  intro s y r reads released mode run fit
  have succeeds : s.attemptSucceeds y reads = s.endAttempt y r
      (((s.host r.host).runningOn y).zipIdx.map fun (e, i) => okResult e (reads.getD i [])) Lane.toIdle := by
    simp only [State.attemptSucceeds, State.onWires_of_run mode run, (readsFit_iff _ _).2 fit, if_true]
  refine ⟨_, (next_live released _).trans (congrArg Host.Outcome.next succeeds), ?_, ?_⟩
  · rw [State.endAttempt_lane]
    rfl
  · exact s.endAttempt_runDone y r _ fun l none_ => (l.toIdle_run).trans none_

/-! ## NACKs (R95, R96, R99) -/

theorem Run.attemptsLeft_iff (r : Run) : r.attemptsLeft = true ↔ r.attempt < 1 + (r.policy 0).retryBudget :=
  decide_eq_true_iff

theorem Run.retriesNack_iff (r : Run) {es : List SubEntry} {k : Nat} {e : SubEntry} (here : es[k]? = some e) :
    r.retriesNack es = true ↔ es.length = 1 ∧ e.desc.mark = .solo ∧ (r.policy 0).retryOnNack = true ∧ e.desc.noRetry = false
      ∧ r.attempt < 1 + (r.policy 0).retryBudget := by
  match es, k with
  | [], k => simp at here
  | [a], 0 =>
    obtain rfl : a = e := by simpa using here
    simp [Run.retriesNack, r.attemptsLeft_iff, and_assoc]
  | [a], k + 1 => simp at here
  | a :: b :: rest, k => simp [Run.retriesNack]

theorem State.addressRefused_of_retry {s : State} {y : LaneId} {k : Nat} {done : List (List Byte)} {r : Run} {es : List SubEntry}
    {e : SubEntry} (here : s.elementAt y k done = some (r, es, e)) {second : Bool}
    (wr : second = true → e.desc.kind = .writeRead) (retries : r.retriesNack es = true) (dataLow : Bool) :
    s.addressRefused y k done second dataLow =
      if dataLow then
        s.waitForLane y r (stoppedResults es k done
          { status := .addrNack, written := if second then e.desc.writeData.length else 0, reads := [] }) k
      else s.updLane y fun l => l.nextAttempt s.elapsed := by
  have defined : ¬(second && !decide (e.desc.kind = .writeRead)) = true := by simpa using wr
  simp only [State.addressRefused, here, if_neg defined, retries, if_true]

theorem State.addressRefused_of_end {s : State} {y : LaneId} {k : Nat} {done : List (List Byte)} {r : Run} {es : List SubEntry}
    {e : SubEntry} (here : s.elementAt y k done = some (r, es, e)) {second : Bool}
    (wr : second = true → e.desc.kind = .writeRead) (last : ¬r.retriesNack es = true) (dataLow : Bool) :
    s.addressRefused y k done second dataLow =
      s.endAttempt y r (stoppedResults es k done
          { status := .addrNack, written := if second then e.desc.writeData.length else 0, reads := [] })
        (if dataLow then fun l => l.toForeign s.elapsed else Lane.toIdle) := by
  have defined : ¬(second && !decide (e.desc.kind = .writeRead)) = true := by simpa using wr
  simp only [State.addressRefused, here, if_neg defined, if_neg last]

theorem State.writeRefused_of_acked {s : State} {y : LaneId} {k : Nat} {done : List (List Byte)} {r : Run} {es : List SubEntry}
    {e : SubEntry} (here : s.elementAt y k done = some (r, es, e)) {acked : Nat} (few : acked < e.desc.writeData.length)
    (dataLow : Bool) : s.writeRefused y k done acked dataLow =
      s.endAttempt y r (stoppedResults es k done { status := .dataNack, written := acked, reads := [] })
        (if dataLow then fun l => l.toForeign s.elapsed else Lane.toIdle) := by
  simp only [State.writeRefused, here, if_pos few]

/-- Settles O39. -/
theorem nacksEndOrRetryTheRun : Obligations.NacksEndOrRetryTheRun := by
  intro s y r k done e dataLow es retries released mode run at_ reads
  have here := State.elementAt_of_run mode run at_ reads
  have retry : r.retriesNack es = true ↔ retries := r.retriesNack_iff at_
  have ends (results : List ElemResult) :
      let u := s.endAttempt y r results (if dataLow then fun l => l.toForeign s.elapsed else Lane.toIdle)
      (u.lane y).mode = (if dataLow then .foreign else .idle) ∧ s.runDone u y r results := by
    refine ⟨?_, s.endAttempt_runDone y r results (Lane.leftBy_run dataLow s.elapsed)⟩
    rw [State.endAttempt_lane]
    exact Lane.leftBy_mode dataLow s.elapsed _
  refine ⟨?_, fun acked few => ?_⟩
  · intro second wr refused
    refine ⟨?_, ?_, fun last => ?_⟩
    · rintro again rfl
      refine (next_live released _).trans (congrArg Host.Outcome.next ?_)
      refine (State.addressRefused_of_retry here wr (retry.2 again) false).trans ((if_neg (by simp)).trans (State.updLane_congr ?_))
      simp only [Lane.nextAttempt, Lane.onLines, run, Option.map_some]
    · rintro again rfl
      refine (next_live released _).trans (congrArg Host.Outcome.next ?_)
      exact State.addressRefused_of_retry here wr (retry.2 again) true
    · exact ⟨_, (next_live released _).trans (congrArg Host.Outcome.next
        (State.addressRefused_of_end here wr (fun again => last (retry.1 again)) dataLow)), ends _⟩
  · exact ⟨_, (next_live released _).trans (congrArg Host.Outcome.next (State.writeRefused_of_acked here few dataLow)), ends _⟩

/-! ## What the lane carries -/

/-- The run's elements are what a RUNNING lane carries. -/
theorem State.carriedOn_of_run {s : State} {y : LaneId} {r : Run} (mode : (s.lane y).mode = .running) (run : (s.lane y).run = some r)
    {k : Nat} {e : SubEntry} (here : ((s.host r.host).runningOn y)[k]? = some e) :
    ∃ c cs, s.carriedOn y = some (c :: cs) ∧ s.runWires y = some (attemptWires ((c :: cs).map Carried.wires)) := by
  have carried : s.runCarried y = some (((s.host r.host).runningOn y).map fun e => e.desc.carried (s.entry e.desc.target).cfg.address) := by
    rw [State.runCarried, run]
    rfl
  have wires : s.carriedOn y = s.runCarried y := by
    rw [State.carriedOn, State.visitOn_of_running mode, State.onWires_of_run mode run]
    rfl
  cases entries : (s.host r.host).runningOn y with
  | nil => simp [entries] at here
  | cons a as =>
    rw [entries, List.map_cons] at carried
    exact ⟨_, _, wires.trans carried, by rw [State.runWires, carried]; rfl⟩

/-! ## A loss of arbitration (R98 to R100) -/

theorem Run.retriesLoss_iff (r : Run) (es : List SubEntry) :
    r.retriesLoss es = true ↔ (∀ e ∈ es, e.desc.noRetry = false) ∧ r.attempt < 1 + (r.policy 0).retryBudget := by
  simp [Run.retriesLoss, r.attemptsLeft_iff]

theorem exec_arbitrationLoss_run {s : State} {y : LaneId} (released : s.resetAsserted = false) (mode : (s.lane y).mode = .running)
    (p : Progress) : exec (.arbitrationLoss y p) s = .next (s.runLosesLane y p) := by
  refine (next_live released _).trans (congrArg Host.Outcome.next ?_)
  rw [State.losesLane, State.visitOn_of_running mode]

theorem State.runLosesLane_of {s : State} {y : LaneId} {p : Progress} {r : Run} {es : List SubEntry} {e : SubEntry}
    (here : s.elementAt y p.elem p.done = some (r, es, e)) (fits : lossFits es e p = true) : s.runLosesLane y p =
      if r.retriesLoss es then
        s.waitForLane y r (stoppedResults es p.elem p.done { status := .arbLost, written := p.written, reads := p.part }) p.elem
      else
        s.endAttempt y r (stoppedResults es p.elem p.done { status := .arbLost, written := p.written, reads := p.part })
          fun l => l.toForeign s.elapsed := by
  simp only [State.runLosesLane, here, if_pos fits]

/-- Settles O40. -/
theorem lostArbitrationWaitsOrEnds : Obligations.LostArbitrationWaitsOrEnds := by
  intro s y r p e es retries lost released mode run at_ reads fits whole ones
  have here := State.elementAt_of_run mode run at_ reads
  have retry : r.retriesLoss es = true ↔ retries := r.retriesLoss_iff es
  have loses := State.runLosesLane_of here (by rw [lossFits, fits, Bool.true_and]; exact decide_eq_true ⟨whole, ones⟩)
  have wires (sent : List LineAct) (mem : sent ∈ s.lostActs y p) : ∃ pre a whole, sent = pre ++ [a, .release .clock, .release .data]
      ∧ (a = .bothHigh ∨ a = .dataHigh) ∧ s.runWires y = some whole ∧ pre ++ [a] <+: lineActs whole := by
    obtain ⟨c, cs, on, carries⟩ := State.carriedOn_of_run mode run at_
    obtain ⟨pre, a, rfl, looks, begins⟩ := State.lostActs_of_carried on mem
    exact ⟨pre, a, _, rfl, looks, carries, begins⟩
  by_cases again : r.retriesLoss es = true
  · refine ⟨_, (exec_arbitrationLoss_run released mode p).trans (congrArg Host.Outcome.next (loses.trans (if_pos again))), ?_,
      fun _ => rfl, fun last => absurd (retry.1 again) last, wires⟩
    rw [State.waitForLane, State.updLane_lane_self]
    rfl
  · refine ⟨_, (exec_arbitrationLoss_run released mode p).trans (congrArg Host.Outcome.next (loses.trans (if_neg again))), ?_,
      fun retries => absurd (retry.2 retries) again, fun _ => ?_, wires⟩
    · rw [State.endAttempt_lane]
      rfl
    · exact s.endAttempt_runDone y r lost fun l none_ => (l.toForeign_run s.elapsed).trans none_

/-! ## A stretch timeout and the closing of the lane (R92, R97) -/

theorem exec_stretchTimeout_run {s : State} {y : LaneId} (released : s.resetAsserted = false) (mode : (s.lane y).mode = .running)
    (p : Progress) (since : Nat) : exec (.stretchTimeout y p since) s = .next (s.runStretched y p since) := by
  refine (next_live released _).trans (congrArg Host.Outcome.next ?_)
  rw [State.stretches, State.visitOn_of_running mode]

theorem State.runStretched_of {s : State} {y : LaneId} {p : Progress} {since : Nat} {r : Run} {es : List SubEntry} {e : SubEntry}
    (here : s.elementAt y p.elem p.done = some (r, es, e)) (fits : progressFits es e p = true)
    (held : s.heldBeyond y since (r.policy (Progress.limitOf p)).stretch = true) : s.runStretched y p since =
      s.endAttempt y r (stoppedResults es p.elem p.done { status := .stretchTimeout, written := p.written, reads := p.part })
        fun l => l.toClosing since := by
  simp only [State.runStretched, here, fits, held, Bool.and_self, if_true]

/-- A closing STOP that leaves both lines high takes a lane that is not in a sweep to IDLE. -/
theorem State.closes_of_run {s : State} {y : LaneId} (closing : (s.lane y).closing = true) (mode : (s.lane y).mode = .running) :
    s.closes y true true = s.updLane y Lane.toIdle := by
  simp only [State.closes, closing, if_true, Bool.and_self, mode]

/-- Settles O41. -/
theorem stretchTimeoutEndsTheRunAndCloses : Obligations.StretchTimeoutEndsTheRunAndCloses := by
  intro s y released mode
  refine ⟨?_, fun closing => ?_, fun closing => ?_, fun clockHigh dataHigh closing low => ?_⟩
  · intro r p e since es run at_ reads fits beyond timed
    have here := State.elementAt_of_run mode run at_ reads
    have stretched := State.runStretched_of here fits (State.heldBeyond_of beyond timed)
    refine ⟨_, (exec_stretchTimeout_run released mode p since).trans (congrArg Host.Outcome.next stretched), ?_, ?_, ?_,
      s.endAttempt_runDone y r _ fun l none_ => (l.toClosing_run since).trans none_, fun sent mem => ?_⟩
    · rw [State.endAttempt_lane]
      exact mode
    · rw [State.endAttempt_lane]
      rfl
    · rw [State.endAttempt_lane]
      rfl
    · obtain ⟨c, cs, on, carries⟩ := State.carriedOn_of_run mode run at_
      obtain ⟨pre, rfl, begins⟩ := State.heldActs_of_carried on mem
      exact ⟨pre, _, rfl, carries, begins⟩
  · rw [State.closingActs, closing]
    rfl
  · exact (next_live released _).trans (congrArg Host.Outcome.next (State.closes_of_run closing mode))
  · refine ⟨_, (next_live released _).trans (congrArg Host.Outcome.next (State.closes_of_low closing low)), ?_, ?_, ?_, ?_,
      State.updLane_hosts .., State.updLane_table .., State.updLane_trace ..⟩
    all_goals rw [State.updLane_lane_self]
    · exact mode
    · exact closing
    · rintro rfl k known
      simp [known]
    · rintro rfl k known
      simp [known]

end Sys2Proof.Machine
end

section
/-! PROOFS. Recovery sequences and restarts: how an attempt goes on, how a sequence ends, and what the end leaves (R107 to R110, R114,
R115, R185). -/

namespace Sys2Proof.Machine

/-! ## The end of a recovery sequence (R109) -/

/-- The state once a recovery sequence has been offered to the trace and is over. -/
def State.recoveryOffered (s : State) (y : LaneId) (r : Recovery) (ok : Bool) : State :=
  (s.offer (recoveryTraceRecord y r ok s.stamp)).updLane y fun l => { l with recovery := none }

theorem State.recoveryOffered_lane (s : State) (y : LaneId) (r : Recovery) (ok : Bool) :
    (s.recoveryOffered y r ok).lane y = { s.lane y with recovery := none } := by
  rw [State.recoveryOffered, State.updLane_lane_self, State.offer_lane]

theorem State.recoveryOffered_lane_ne (s : State) {y z : LaneId} (other : z ≠ y) (r : Recovery) (ok : Bool) :
    (s.recoveryOffered y r ok).lane z = s.lane z := by
  rw [State.recoveryOffered, State.updLane_lane_ne _ _ other, State.offer_lane]

theorem State.recoveryOffered_host (s : State) (y : LaneId) (r : Recovery) (ok : Bool) (h : HostId) :
    (s.recoveryOffered y r ok).host h =
      s.hostAfterOffer (recoveryRecord y ok r.attempts r.start s.elapsed) h (s.host h) := by
  rw [State.recoveryOffered, State.updLane_host, State.offer_host]
  rfl

theorem State.recoveryOffered_table (s : State) (y : LaneId) (r : Recovery) (ok : Bool) : (s.recoveryOffered y r ok).table = s.table := by
  rw [State.recoveryOffered, State.updLane_table, State.offer_table]

theorem State.recoveryOffered_entry (s : State) (y : LaneId) (r : Recovery) (ok : Bool) (v : TargetId) :
    (s.recoveryOffered y r ok).entry v = s.entry v := by
  rw [State.recoveryOffered, State.updLane_entry, State.offer_entry]

theorem State.recoveryOffered_trace (s : State) (y : LaneId) (r : Recovery) (ok : Bool) :
    (s.recoveryOffered y r ok).trace = (s.trace.offer (recoveryRecord y ok r.attempts r.start s.elapsed)).1 := by
  rw [State.recoveryOffered, State.updLane_trace, State.offer_trace]
  rfl

theorem State.recoveryOffered_elapsed (s : State) (y : LaneId) (r : Recovery) (ok : Bool) :
    (s.recoveryOffered y r ok).elapsed = s.elapsed := by
  rw [State.recoveryOffered, State.updLane_elapsed, State.offer_elapsed]

theorem State.recoveryEnd_eq (s : State) (y : LaneId) (r : Recovery) (ok : Bool) : s.recoveryEnd y r ok =
    match (s.lane y).restart, ok with
    | some k, true => (s.recoveryOffered y r ok).restartSucceeds y k
    | some k, false => (s.recoveryOffered y r ok).restartFails y k
    | none, true =>
      (s.recoveryOffered y r ok).updLane y fun l => if l.run.isSome then l.nextAttempt s.elapsed else l.toIdle
    | none, false => (s.recoveryOffered y r ok).laneFault y := by
  have restart : ((s.recoveryOffered y r ok).lane y).restart = (s.lane y).restart := by rw [State.recoveryOffered_lane]
  rw [← restart]
  rfl

/-! ## The attempts (R108) -/

theorem State.recoveryTry_of_success {o : RecoveryObs} (succeeds : RecoveryObs.succeeds o = true) (s : State) (y : LaneId) (r : Recovery) :
    s.recoveryTry y r o = s.recoveryEnd y { r with attempts := r.attempts + 1 } true :=
  if_pos succeeds

theorem State.recoveryTry_of_last {o : RecoveryObs} (fails : RecoveryObs.succeeds o = false) (s : State) (y : LaneId) {r : Recovery}
    (last : 3 ≤ r.attempts + 1) : s.recoveryTry y r o = s.recoveryEnd y { r with attempts := r.attempts + 1 } false :=
  (if_neg (by simp [fails])).trans (if_pos last)

theorem State.recoveryTry_of_more {o : RecoveryObs} (fails : RecoveryObs.succeeds o = false) (s : State) (y : LaneId) {r : Recovery}
    (more : r.attempts + 1 < 3) : s.recoveryTry y r o = s.updLane y fun l =>
      { l with recovery := some { attempts := r.attempts + 1, start := r.start, nextTick := expiryTick s.elapsed 1 } } :=
  (if_neg (by simp [fails])).trans (if_neg (Nat.not_le.2 more))

theorem State.recoveryNext_of_due {s : State} {y : LaneId} {r : Recovery} (mode : (s.lane y).mode = .recovery)
    (recovery : (s.lane y).recovery = some r) (due : r.nextTick * 1000 ≤ s.elapsed) (o : RecoveryObs) :
    s.recoveryNext y o = s.recoveryTry y r o := by
  have reached : s.reached r.nextTick = true := decide_eq_true due
  simp only [State.recoveryNext, recovery, mode, reached, and_self, if_true]

/-! ## A sequence that frees the lane (R105, R109) -/

/-- The lane after the success of a sequence that the stuck limit started: IDLE, or RUNNING with the next attempt of a run that waits. -/
theorem Lane.freedBySequence (l : Lane) (now : Nat) :
    (if ({ l with recovery := none } : Lane).run.isSome then ({ l with recovery := none } : Lane).nextAttempt now
      else ({ l with recovery := none } : Lane).toIdle) =
    match l.run with
    | none => { l with mode := .idle, closing := false, recovery := none, clockLowFrom := none, dataLowFrom := none }
    | some r =>
      { l with mode := .running, closing := false, recovery := none, clockLowFrom := some now
               dataLowFrom := some now, run := some { r with attempt := r.attempt + 1, results := [], stoppedAt := 0 } } :=
  Lane.freed_eq { l with recovery := none } now

/-- What a sequence that succeeds leaves, when no restart waits for it. -/
theorem State.recoveryEnd_frees {s : State} {y : LaneId} (free : (s.lane y).restart = none) (r : Recovery) :
    let u := s.recoveryEnd y r true
    u.lane y = (if ({ s.lane y with recovery := none } : Lane).run.isSome then
        ({ s.lane y with recovery := none } : Lane).nextAttempt s.elapsed
      else ({ s.lane y with recovery := none } : Lane).toIdle)
      ∧ (∀ z, z ≠ y → u.lane z = s.lane z) ∧ u.table = s.table
      ∧ u.trace = (s.trace.offer (recoveryRecord y true r.attempts r.start s.elapsed)).1
      ∧ ∀ h, u.host h = s.hostAfterOffer (recoveryRecord y true r.attempts r.start s.elapsed) h (s.host h) := by
  intro u
  have ends : u = (s.recoveryOffered y r true).updLane y fun l => if l.run.isSome then l.nextAttempt s.elapsed else l.toIdle := by
    rw [show u = s.recoveryEnd y r true from rfl, State.recoveryEnd_eq, free]
  rw [ends]
  refine ⟨?_, fun z other => ?_, ?_, ?_, fun h => ?_⟩
  · rw [State.updLane_lane_self, State.recoveryOffered_lane]
  · rw [State.updLane_lane_ne _ _ other, State.recoveryOffered_lane_ne _ other]
  · rw [State.updLane_table, State.recoveryOffered_table]
  · rw [State.updLane_trace, State.recoveryOffered_trace]
  · rw [State.updLane_host, State.recoveryOffered_host]

/-! ## The stuck limit (R106, R107) -/

theorem Lane.stuckActs_iff (l : Lane) : l.stuckActs = true ↔
    l.mode = .idle ∨ l.mode = .foreign ∨ (l.mode = .running ∨ l.mode = .sweep) ∧ l.closing = true := by
  unfold Lane.stuckActs
  cases l.mode <;> simp

/-- The stuck limit is reached by a line timed long enough, in a lane that the limit acts in. -/
theorem State.stuckReached_of_due {s : State} {y : LaneId} {line : Line} {since : Nat} (acts : (s.lane y).stuckActs = true)
    (due : expiryTick since 35 * 1000 ≤ s.elapsed) (timed : ∃ k, (s.lane y).timedFrom line = some k ∧ k ≤ since) (o : RecoveryObs) :
    s.stuckReached y line since o =
      (s.updLane y fun l => { l with sweep := none, grantOwed := l.grantOwed || l.sweep.isSome }).recoveryBegin y o := by
  obtain ⟨k, from_, early⟩ := timed
  refine if_pos ⟨acts, decide_eq_true due, ?_⟩
  rw [from_]
  exact decide_eq_true early

theorem State.stuckReached_of_untimed {s : State} {y : LaneId} {line : Line} (untimed : (s.lane y).timedFrom line = none) (since : Nat)
    (o : RecoveryObs) : s.stuckReached y line since o = s := by
  refine if_neg fun ⟨_, _, timed⟩ => ?_
  rw [untimed] at timed
  cases timed

/-- Settles O32. -/
theorem stuckLinesAreRecovered : Obligations.StuckLinesAreRecovered := by
  intro s y o released free freed recovered
  refine ⟨?_, fun r mode recovery due => ?_⟩
  · intro line since acts swept
    refine ⟨fun due timed => ?_, fun untimed => ?_⟩
    · have begins := State.stuckReached_of_due ((s.lane y).stuckActs_iff.2 acts) due timed o
      let m := s.updLane y fun l =>
        { l with sweep := none, grantOwed := l.grantOwed || l.sweep.isSome, mode := .recovery, closing := false }
      have tries : s.stuckReached y line since o = m.recoveryTry y { attempts := 0, start := s.elapsed, nextTick := 0 } o := by
        rw [begins, State.recoveryBegin, State.updLane_updLane, State.updLane_elapsed]
      have time : m.elapsed = s.elapsed := State.updLane_elapsed ..
      have lane : m.lane y = { swept with mode := .recovery, closing := false } := State.updLane_lane_self ..
      refine ⟨_, (next_live released _).trans (congrArg Host.Outcome.next tries), fun fails => ?_, fun succeeds => ?_⟩
      · rw [State.recoveryTry_of_more fails m y (by simp), time, State.updLane_updLane]
        exact State.updLane_congr rfl
      · obtain ⟨own, others, table, trace, hosts⟩ := State.recoveryEnd_frees (s := m) (y := y) (by rw [lane]; exact free)
          { attempts := 1, start := s.elapsed, nextTick := 0 }
        rw [State.recoveryTry_of_success succeeds]
        refine ⟨?_, fun z other => ?_, ?_, ?_, fun h => ?_⟩
        · rw [lane, time] at own
          exact own.trans (Lane.freedBySequence _ _)
        · rw [others z other, State.updLane_lane_ne _ _ other]
        · rw [table, State.updLane_table]
        · rw [trace, time, State.updLane_trace]
        · rw [hosts, time, State.hostAfterOffer_congr (State.updLane_trace ..) time, State.updLane_host]
    · exact (next_live released _).trans (congrArg Host.Outcome.next (State.stuckReached_of_untimed untimed since o))
  · have tries := State.recoveryNext_of_due mode recovery due o
    refine ⟨_, (next_live released _).trans (congrArg Host.Outcome.next tries), fun fails more => ?_, fun succeeds => ?_⟩
    · exact State.recoveryTry_of_more fails s y more
    · obtain ⟨own, others, table, trace, hosts⟩ := State.recoveryEnd_frees free { r with attempts := r.attempts + 1 }
      rw [State.recoveryTry_of_success succeeds]
      refine ⟨?_, others, table, trace, hosts⟩
      exact own.trans (Lane.freedBySequence _ _)

/-! ## The end of a restart (R114, R115, R185) -/

/-- Host g at the end of a restart of lane y, but for its port. -/
def State.hostAfterRestart (s : State) (y : LaneId) (attempts start : Nat) (ok : Bool) (g : HostId) : HostCtx :=
  let told := s.hostAfterOffer (recoveryRecord y ok attempts start s.elapsed) g (s.host g)
  if ok then (if (s.host g).attached then told.takeNotice .laneRestored (.lane y) 0 s.stamp else told)
  else told.endWork (fun w => w.any fun e => decide ((s.entry e.desc.target).cfg.lane = y)) (fun _ => .laneFaulted) s.stamp

/-- The port of host g at the end of restart k. -/
def Port.afterRestart (p : Port) (g : HostId) (y : LaneId) (k : Restart) (ok : Bool) : Port :=
  if k.live = true ∧ g = k.caller then
    p.storePending k.exch k.check ⟨if ok then .done else .restartFailed, [laneByte y, if ok then 0 else 5]⟩
  else p

theorem State.hostAfterOffer_fixed {α : Type} {f : HostCtx → α} (fixed : ∀ c k subj d now, f (HostCtx.takeNotice c k subj d now) = f c)
    (s : State) (r : TraceRecord) (h : HostId) (c : HostCtx) : f (s.hostAfterOffer r h c) = f c := by
  unfold State.hostAfterOffer
  split
  · split
    · exact fixed ..
    · rfl
  · rfl

theorem State.hostAfterRestart_port (s : State) (y : LaneId) (attempts start : Nat) (ok : Bool) (g : HostId) :
    (s.hostAfterRestart y attempts start ok g).port = (s.host g).port := by
  have told := s.hostAfterOffer_fixed (f := (·.port)) (by simp) (recoveryRecord y ok attempts start s.elapsed) g (s.host g)
  unfold State.hostAfterRestart
  cases ok
  · exact (HostCtx.endWork_port ..).trans told
  · dsimp only
    rw [if_pos rfl]
    split
    · exact (HostCtx.takeNotice_port ..).trans told
    · exact told

theorem State.recoveryEnd_restart_host {s : State} {y : LaneId} {k : Restart} (restart : (s.lane y).restart = some k) (r : Recovery)
    (ok : Bool) (g : HostId) : (s.recoveryEnd y r ok).host g =
      { s.hostAfterRestart y r.attempts r.start ok g with port := (s.host g).port.afterRestart g y k ok } := by
  have told := s.recoveryOffered_host y r ok g
  have attached : ((s.recoveryOffered y r ok).host g).attached = (s.host g).attached := by
    rw [told]
    exact s.hostAfterOffer_fixed (f := (·.attached)) (by simp) _ g _
  have onLane : (s.recoveryOffered y r ok).onLane y = fun w => w.any fun e => decide ((s.entry e.desc.target).cfg.lane = y) := by
    funext w
    simp only [State.onLane, State.recoveryOffered_entry]
  have port := s.hostAfterRestart_port y r.attempts r.start ok g
  rw [State.recoveryEnd_eq, restart]
  have answered {u : State} (host : u.host g = s.hostAfterRestart y r.attempts r.start ok g)
      (mode : (u.lane y).mode = if ok then .idle else .faulted) (st : Status) (status : st = if ok then .done else .restartFailed) :
      (u.answerRestart y k st).host g =
        { s.hostAfterRestart y r.attempts r.start ok g with port := (s.host g).port.afterRestart g y k ok } := by
    rw [State.answerRestart_host, host, port, mode, status, Port.afterRestart]
    split
    · cases ok <;> rfl
    · rw [← port]
  cases ok
  · refine answered ?_ ?_ _ rfl
    · rw [State.faultSearch_host, State.updLane_host, told]
      have same : (((s.recoveryOffered y r false).updLane y fun l => { l.toFaulted with restart := none }).onLane y)
          = (s.recoveryOffered y r false).onLane y := by
        funext w
        simp only [State.onLane, State.updLane_entry]
      rw [same, onLane]
      have now : ((s.recoveryOffered y r false).updLane y fun l => { l.toFaulted with restart := none }).stamp = s.stamp := by
        rw [State.stamp, State.updLane_elapsed, State.recoveryOffered_elapsed, State.stamp]
      rw [now]
      rfl
    · rw [(State.faultSearch_only _ y).rest.lane, State.updLane_lane_self]
      rfl
  · refine answered ?_ ?_ _ rfl
    · rw [State.tellAttached_host, State.updLane_host, attached, told]
      have now : ((s.recoveryOffered y r true).updLane y fun l =>
          { l.toIdle with restart := none, masked := l.masked && l.alertLow }).stamp = s.stamp := by
        rw [State.stamp, State.updLane_elapsed, State.recoveryOffered_elapsed, State.stamp]
      rw [now]
      rfl
    · rw [(State.tellAttached_only _ y _).rest.lane, State.updLane_lane_self]
      rfl

theorem State.answerRestart_table (s : State) (y : LaneId) (k : Restart) (st : Status) : (s.answerRestart y k st).table = s.table := by
  unfold State.answerRestart
  split <;> rfl

theorem State.answerRestart_trace (s : State) (y : LaneId) (k : Restart) (st : Status) : (s.answerRestart y k st).trace = s.trace := by
  unfold State.answerRestart
  split <;> rfl

theorem State.recoveryEnd_restart_table {s : State} {y : LaneId} {k : Restart} (restart : (s.lane y).restart = some k) (r : Recovery)
    (ok : Bool) : (s.recoveryEnd y r ok).table = s.table := by
  rw [State.recoveryEnd_eq, restart]
  cases ok
  · exact (State.answerRestart_table ..).trans ((State.faultSearch_only _ y).rest.table.trans
      ((State.updLane_table ..).trans (s.recoveryOffered_table y r false)))
  · exact (State.answerRestart_table ..).trans ((State.tellAttached_only _ y _).rest.table.trans
      ((State.updLane_table ..).trans (s.recoveryOffered_table y r true)))

theorem State.recoveryEnd_restart_trace {s : State} {y : LaneId} {k : Restart} (restart : (s.lane y).restart = some k) (r : Recovery)
    (ok : Bool) : (s.recoveryEnd y r ok).trace = (s.trace.offer (recoveryRecord y ok r.attempts r.start s.elapsed)).1 := by
  rw [State.recoveryEnd_eq, restart]
  cases ok
  · exact (State.answerRestart_trace ..).trans ((State.faultSearch_only _ y).rest.trace.trans
      ((State.updLane_trace ..).trans (s.recoveryOffered_trace y r false)))
  · exact (State.answerRestart_trace ..).trans ((State.tellAttached_only _ y _).rest.trace.trans
      ((State.updLane_trace ..).trans (s.recoveryOffered_trace y r true)))

/-- The lane at the end of its restart, in the words of `restartEnded`. -/
theorem Lane.recovered_of_restart {l : Lane} {k : Restart} (restart : l.restart = some k) (ok : Bool) (now : Nat) :
    l.recovered ok now = { l with
      mode := if ok then .idle else .faulted, closing := false, recovery := none, restart := none
      clockLowFrom := if ok then none else l.clockLowFrom
      dataLowFrom := if ok then none else l.dataLowFrom
      masked := if ok then l.masked && l.alertLow else l.masked } := by
  unfold Lane.recovered
  rw [restart]
  cases ok <;> rfl

theorem Port.afterRestart_caller {k : Restart} (live : k.live = true) (p : Port) (y : LaneId) (ok : Bool) :
    p.afterRestart k.caller y k ok =
      p.storePending k.exch k.check ⟨if ok then .done else .restartFailed, [laneByte y, if ok then 0 else 5]⟩ :=
  if_pos ⟨live, rfl⟩

theorem Port.afterRestart_other {k : Restart} {g : HostId} (other : g ≠ k.caller ∨ k.live = false) (p : Port) (y : LaneId) (ok : Bool) :
    p.afterRestart g y k ok = p := by
  refine if_neg fun ⟨live, own⟩ => ?_
  rcases other with apart | dead
  · exact apart own
  · rw [live] at dead
    cases dead

theorem State.recoveryEnd_restartEnded {s : State} {y : LaneId} {k : Restart} (restart : (s.lane y).restart = some k) (r : Recovery)
    (ok : Bool) : s.restartEnded (s.recoveryEnd y r ok) y k r.attempts r.start ok := by
  have host := State.recoveryEnd_restart_host restart r ok
  refine ⟨?_, fun z other => ?_, State.recoveryEnd_restart_table restart r ok, State.recoveryEnd_restart_trace restart r ok,
    fun g => ?_, fun live => ?_, fun g other => ?_⟩
  · rw [State.recoveryEnd_lane, if_pos rfl, Lane.recovered_of_restart restart]
  · rw [State.recoveryEnd_lane, if_neg other]
  · rw [host, ← s.hostAfterRestart_port y r.attempts r.start ok g]
    rfl
  · rw [host, Port.afterRestart_caller live]
    exact ⟨rfl, rfl, rfl⟩
  · rw [host, Port.afterRestart_other other]

/-- Settles O30. -/
theorem restartEnds : Obligations.RestartEnds := by
  intro s y o r k released mode recovery restart due
  have tries := State.recoveryNext_of_due mode recovery due o
  refine ⟨_, (next_live released _).trans (congrArg Host.Outcome.next tries), fun fails more => ?_, fun succeeds => ?_,
    fun fails last => ?_⟩
  · exact State.recoveryTry_of_more fails s y more
  · rw [State.recoveryTry_of_success succeeds]
    exact State.recoveryEnd_restartEnded restart { r with attempts := r.attempts + 1 } true
  · rw [State.recoveryTry_of_last fails s y last]
    exact State.recoveryEnd_restartEnded restart { r with attempts := r.attempts + 1 } false

end Sys2Proof.Machine
end

section
/-! PROOFS. LANE_RESTART (R114, R185): its refusal, its beginning, and its end at a first attempt that succeeds. -/

namespace Sys2Proof.Machine

/-! ## What does not depend on the ports -/

theorem State.updPort_withPort (s : State) (h : HostId) (f : Port → Port) (g : HostId) (q : Port) :
    ({ (s.updPort h f).host g with port := q } : HostCtx) = { s.host g with port := q } := by
  rw [State.updPort_host]
  split
  · next same => rw [same]
  · rfl

theorem HostCtx.takeNotice_withPort (c : HostCtx) (q : Port) (k : NoticeKind) (subj : Subject) (d : Byte) (now : Stamp) :
    HostCtx.takeNotice { c with port := q } k subj d now = { c.takeNotice k subj d now with port := q } := by
  have unpresented : HostCtx.unpresentedPart { c with port := q } = c.unpresentedPart := rfl
  unfold HostCtx.takeNotice
  rw [unpresented]
  dsimp only
  split
  · rfl
  · cases (if k = .alert then coalesceIn subj d c.unpresentedPart else none) with
    | some ns => rfl
    | none =>
      dsimp only
      unfold HostCtx.appendNotice
      dsimp only
      split <;> rfl

theorem State.hostAfterOffer_withPort (s : State) (r : TraceRecord) (h : HostId) (c : HostCtx) (q : Port) :
    s.hostAfterOffer r h { c with port := q } = { s.hostAfterOffer r h c with port := q } := by
  unfold State.hostAfterOffer
  cases (s.trace.offer r).2 with
  | none => rfl
  | some detail =>
    dsimp only
    split
    · exact c.takeNotice_withPort q _ _ _ _
    · rfl

/-- The success of a restart does to a host what it does to one that differs in its port alone. -/
theorem State.hostAfterRestart_withPort {s m : State} {g : HostId} {q : Port} (host : m.host g = { s.host g with port := q })
    (trace : m.trace = s.trace) (time : m.elapsed = s.elapsed) (y : LaneId) (attempts start : Nat) :
    m.hostAfterRestart y attempts start true g = { s.hostAfterRestart y attempts start true g with port := q } := by
  have now : m.stamp = s.stamp := by rw [State.stamp, time, State.stamp]
  rw [State.hostAfterRestart, if_pos rfl, State.hostAfterOffer_congr trace time, time, host, State.hostAfterOffer_withPort, now]
  rw [State.hostAfterRestart, if_pos rfl]
  dsimp only
  split
  · exact HostCtx.takeNotice_withPort _ q _ _ _ _
  · rfl

/-! ## A restart begins -/

/-- The restart that a LANE_RESTART frame calls. -/
def calledRestart (h : HostId) (x : Byte) (y : LaneId) : Restart :=
  { caller := h, exch := x, check := Frame.check (commandFrameOf .laneRestart x [laneByte y]), live := true }

/-- The state at the first attempt of a restart. -/
def State.restartBegun (s : State) (h : HostId) (x : Byte) (y : LaneId) : State :=
  ((s.updLane y fun l => { l with restart := some (calledRestart h x y) }).updPort h Port.awaitRestart).updLane y
    fun l => { l with mode := .recovery, closing := false }

theorem parseLane_laneByte (y : LaneId) : parseLane [laneByte y] = some y := by
  simp [parseLane, oneByte, laneOfByte_laneByte]

theorem runCommand_laneRestart (s : State) (h : HostId) (x : Byte) (y : LaneId) (o : LaneObs) :
    runCommand h .laneRestart (commandFrameOf .laneRestart x [laneByte y]) o s =
      if (s.lane y).mode = .faulted then
        ((s.restartBegun h x y).recoveryTry y { attempts := 0, start := s.elapsed, nextTick := 0 } o.recovery, none)
      else (s, some ⟨.laneNotFaulted, []⟩) := by
  have time : ((s.updLane y fun l => { l with restart := some (calledRestart h x y) }).updPort h Port.awaitRestart).elapsed = s.elapsed := by
    rw [State.updPort_elapsed, State.updLane_elapsed]
  rw [← time, runCommand, laneRestart, show (commandFrameOf .laneRestart x [laneByte y]).payload = [laneByte y] from rfl, parseLane_laneByte]
  rfl

theorem exec_laneRestart_begins {s : State} {h : HostId} {x : Byte} {y : LaneId} {o : LaneObs}
    (ha : s.accepts h .laneRestart x [laneByte y] = true) (faulted : (s.lane y).mode = .faulted) :
    exec (.laneRestart h x (laneByte y) o) s = .next (((s.restartBegun h x y).recoveryTry y
      { attempts := 0, start := s.elapsed, nextTick := 0 } o.recovery).sdoZeros h 6) := by
  refine congrArg Host.Outcome.next ?_
  rw [State.sends_accepted s h .laneRestart x [laneByte y] o ha, runCommand_laneRestart, if_pos faulted]
  rfl

section
variable (s : State) (h : HostId) (x : Byte) (y : LaneId)

theorem State.restartBegun_lane : (s.restartBegun h x y).lane y =
    { s.lane y with mode := .recovery, closing := false, restart := some (calledRestart h x y) } := by
  rw [State.restartBegun, State.updLane_lane_self, State.updPort_lane, State.updLane_lane_self]

theorem State.restartBegun_lane_ne {z : LaneId} (other : z ≠ y) : (s.restartBegun h x y).lane z = s.lane z := by
  rw [State.restartBegun, State.updLane_lane_ne _ _ other, State.updPort_lane, State.updLane_lane_ne _ _ other]

theorem State.restartBegun_table : (s.restartBegun h x y).table = s.table := by
  rw [State.restartBegun, State.updLane_table, State.updPort_table, State.updLane_table]

theorem State.restartBegun_trace : (s.restartBegun h x y).trace = s.trace := by
  rw [State.restartBegun, State.updLane_trace, State.updPort_trace, State.updLane_trace]

theorem State.restartBegun_elapsed : (s.restartBegun h x y).elapsed = s.elapsed := by
  rw [State.restartBegun, State.updLane_elapsed, State.updPort_elapsed, State.updLane_elapsed]

theorem State.restartBegun_host (g : HostId) : (s.restartBegun h x y).host g =
    { s.host g with port := if g = h then (s.host g).port.awaitRestart else (s.host g).port } := by
  rw [State.restartBegun, State.updLane_host, State.updPort_host]
  by_cases own : g = h
  · subst own
    rw [if_pos rfl, if_pos rfl, State.updLane_host]
  · rw [if_neg own, if_neg own, State.updLane_host]

end

/-- Settles O29. -/
theorem laneRestartRecovers : Obligations.LaneRestartRecovers := by
  intro s h x y o ha called
  have lane := s.restartBegun_lane h x y
  have host := s.restartBegun_host h x y
  have trace := s.restartBegun_trace h x y
  have time := s.restartBegun_elapsed h x y
  refine ⟨fun sound => ?_, fun faulted fails => ?_, fun faulted succeeds => ?_⟩
  · refine congrArg Host.Outcome.next (State.sends_answered ha ?_)
    rw [runCommand_laneRestart, if_neg sound]
    rfl
  · refine ⟨_, exec_laneRestart_begins ha faulted, ?_⟩
    rw [State.recoveryTry_of_more fails _ y (by simp)]
    refine ⟨?_, ?_, fun z other => ?_, ?_, ?_, fun g => ?_⟩
    · rw [State.sdoZeros, State.updPort_port_self, State.updLane_host, host, if_pos rfl]
      rfl
    · rw [State.sdoZeros, State.updPort_lane, State.updLane_lane_self, lane, time]
      rfl
    · rw [State.sdoZeros, State.updPort_lane, State.updLane_lane_ne _ _ other, State.restartBegun_lane_ne _ _ _ _ other]
    · rw [State.sdoZeros, State.updPort_table, State.updLane_table, State.restartBegun_table]
    · rw [State.sdoZeros, State.updPort_trace, State.updLane_trace, trace]
    · rw [State.sdoZeros, State.updPort_withPort, State.updLane_host, host]
  · refine ⟨_, exec_laneRestart_begins ha faulted, ?_⟩
    rw [State.recoveryTry_of_success succeeds]
    have restart : ((s.restartBegun h x y).lane y).restart = some called := by rw [lane]; rfl
    obtain ⟨own, others, table, offered, _, answered, ports⟩ := State.recoveryEnd_restartEnded restart
      { attempts := 1, start := s.elapsed, nextTick := 0 } true
    have ends := State.recoveryEnd_restart_host restart { attempts := 1, start := s.elapsed, nextTick := 0 } true
    refine ⟨?_, fun z other => ?_, ?_, ?_, fun g => ?_, fun live => ?_, fun g other => ?_⟩
    · rw [State.sdoZeros, State.updPort_lane, own, lane]
    · rw [State.sdoZeros, State.updPort_lane, others z other, State.restartBegun_lane_ne _ _ _ _ other]
    · rw [State.sdoZeros, State.updPort_table, table, State.restartBegun_table]
    · rw [State.sdoZeros, State.updPort_trace, offered, trace, time]
    · rw [State.sdoZeros, State.updPort_withPort, ends, State.hostAfterRestart_withPort (host g) trace time]
      dsimp only
      rw [← s.hostAfterRestart_port y 1 s.elapsed true g]
      rfl
    · obtain ⟨slot, memory, discarded⟩ := answered live
      rw [host, if_pos (show called.caller = h from rfl)] at slot
      rw [State.sdoZeros, State.updPort_port_self]
      exact ⟨slot, memory, discarded⟩
    · have apart : g ≠ h := other.elim id fun dead => absurd dead (by simp [called])
      rw [State.sdoZeros, State.updPort_host, if_neg apart, ports g other, host, if_neg apart]

end Sys2Proof.Machine
end

section
/-! PROOFS. The third failed recovery attempt makes the lane FAULTED (R43, R109, R110). -/

namespace Sys2Proof.Machine

/-! ## Properties that notices and ended work keep -/

theorem hostLaw_queueFits : HostLaw fun c => c.queueFits = true :=
  ⟨fun c k subj d now fits => (HostMove.notice c k subj d now).queueFits fits,
    fun c hit st now fits => (HostMove.ended c hit st now).queueFits fits⟩

/-- No QUEUED entry that p names comes into a queue. -/
theorem hostLaw_clear (p : SubEntry → Bool) : HostLaw fun c => ∀ e ∈ c.sq, e.state = .queued → p e = false := by
  refine ⟨fun c k subj d now clear => ?_, fun c hit st now clear e he => ?_⟩
  · rw [HostCtx.takeNotice_sq]
    exact clear
  · rw [HostCtx.endWork_sq, List.mem_flatten] at he
    obtain ⟨g, kept, he⟩ := he
    exact clear e (mem_of_mem_groups (List.mem_filter.1 kept).1 he)

/-! ## The notice of a lane fault (R110, R142) -/

/-- A notice that is not ALERT stands last in the queue, or sets the overflow flag. -/
theorem HostCtx.takeNotice_last {c : HostCtx} (attached : c.attached = true) {k : NoticeKind} (other : k ≠ .alert) (subj : Subject)
    (d : Byte) (now : Stamp) :
    (c.takeNotice k subj d now).nq.getLast? = some { kind := k, subject := subj, detail := d, count := 1, stamp := now }
      ∨ (c.takeNotice k subj d now).overflow = true := by
  rw [HostCtx.takeNotice_of_apart attached (fun alert => absurd alert other)]
  unfold HostCtx.appendNotice
  split
  · exact .inl (by simp)
  · exact .inr rfl

/-- A notice about the lane to each ATTACHED host: a HELD host discards it anyway. -/
theorem State.tellAttached_takes (s : State) (y : LaneId) (k : NoticeKind) (g : HostId) :
    (s.tellAttached y k).host g = (s.host g).takeNotice k (.lane y) 0 s.stamp := by
  rw [State.tellAttached_host]
  cases attached : (s.host g).attached
  · exact (HostCtx.takeNotice_of_held attached k _ 0 s.stamp).symm
  · exact if_pos rfl

/-- What holds of the end of a run holds after notices too. -/
theorem State.runEnded_told {s e u : State} {y : LaneId} {r : Run} {results : List ElemResult} {before : Trace}
    (ended : s.runEnded e y r results before) (work : ∀ g, (e.host g).SameWork (u.host g)) (rest : e.OnlyHosts u) :
    s.runEnded u y r results before := by
  obtain ⟨run, others, gone, live, discarded, entries, trace⟩ := ended
  have own := work r.host
  refine ⟨?_, fun z other => ?_, ?_, fun alive => ?_, fun dead => ?_, fun v => ?_, ?_⟩
  · rw [rest.lane]
    exact run
  · rw [rest.lane]
    exact others z other
  · rw [own.sq]
    exact gone
  · rw [own.cq, own.credits, own.paused, own.discardedRunning]
    exact live alive
  · rw [own.credits, own.discardedRunning]
    exact discarded dead
  · rw [rest.entry]
    exact entries v
  · rw [rest.trace]
    exact trace

/-! ## The run that a lane fault ends (R110) -/

/-- The element at which the last attempt stopped gets LANE_FAULTED. -/
theorem Run.faultedResults_of_attempt {r : Run} {es : List SubEntry} {done : List (List Byte)} {k : Nat} {here : ElemResult}
    (results : r.results = attemptResults es done k here) (stopped : r.stoppedAt = k) :
    r.faultedResults = attemptResults es done k { here with status := .laneFaulted } := by
  refine List.ext_getElem? fun i => ?_
  rw [Run.faultedResults, results, stopped]
  simp only [attemptResults, List.getElem?_map, List.getElem?_zipIdx]
  cases es[i]? with
  | none => rfl
  | some e =>
    rcases Nat.lt_trichotomy i k with before | rfl | after
    · simp [before, Nat.ne_of_lt before]
    · simp
    · simp [Nat.not_lt.2 (Nat.le_of_lt after), Nat.ne_of_gt after]

theorem State.sameWork_hostAfterOffer (s : State) (r : TraceRecord) (h : HostId) (c : HostCtx) : c.SameWork (s.hostAfterOffer r h c) := by
  unfold State.hostAfterOffer
  split
  · split
    · exact c.sameWork_takeNotice _ _ _ _
    · exact .refl c
  · exact .refl c

theorem State.noted_recoveryOffered (s : State) (y : LaneId) (r : Recovery) (ok : Bool) : s.Noted (s.recoveryOffered y r ok) y := by
  refine ⟨fun g => ?_, s.recoveryOffered_entry y r ok, s.recoveryOffered_elapsed y r ok,
    fun z other => s.recoveryOffered_lane_ne other r ok⟩
  rw [State.recoveryOffered_host]
  exact s.sameWork_hostAfterOffer _ g _

theorem HostCtx.queueFits_offered {s : State} {g : HostId} (fits : (s.host g).queueFits = true) (r : TraceRecord) :
    (s.hostAfterOffer r g (s.host g)).queueFits = true := by
  unfold State.hostAfterOffer
  split
  · split
    · exact hostLaw_queueFits.notice _ _ _ _ _ fits
    · exact fits
  · exact fits

/-! ## The state that takes the LANE_FAULTED notices -/

/-- The lane FAULTED, its run ended and the queued work on it ended, before the notices (R43, R110). -/
def State.faultEnds (m : State) (y : LaneId) : State :=
  match (m.lane y).run with
  | some r => m.endRun y { r with results := r.faultedResults } Lane.toFaulted fun s => s.faultSearch y
  | none => (m.updLane y Lane.toFaulted).faultSearch y

theorem State.laneFault_eq (m : State) (y : LaneId) : m.laneFault y = (m.faultEnds y).tellAttached y .laneFaulted := rfl

theorem State.faultEnds_of_idle {m : State} {y : LaneId} (waits : (m.lane y).run = none) :
    m.faultEnds y = (m.updLane y Lane.toFaulted).faultSearch y := by
  rw [State.faultEnds, waits]

theorem State.faultEnds_of_run {m : State} {y : LaneId} {r : Run} (waits : (m.lane y).run = some r) :
    m.faultEnds y = m.endRun y { r with results := r.faultedResults } Lane.toFaulted fun s => s.faultSearch y := by
  rw [State.faultEnds, waits]

/-- The search of a lane fault in a state with the settings of s. -/
theorem State.faultSearch_as {s t : State} (cfg : ∀ v, (t.entry v).cfg = (s.entry v).cfg) (now : t.stamp = s.stamp) (y : LaneId) (g : HostId) :
    (t.faultSearch y).host g = (t.host g).endWork (fun w => w.any fun e => decide ((s.entry e.desc.target).cfg.lane = y))
      (fun _ => .laneFaulted) s.stamp := by
  have onLane : t.onLane y = fun w => w.any fun e => decide ((s.entry e.desc.target).cfg.lane = y) := by
    funext w
    simp only [State.onLane, cfg]
  rw [State.faultSearch_host, onLane, now]

section
variable {s m : State} {y : LaneId} (noted : s.Noted m y)
include noted

theorem State.faultEnds_idle_host (waits : (m.lane y).run = none) (g : HostId) : (m.faultEnds y).host g =
    (m.host g).endWork (fun w => w.any fun e => decide ((s.entry e.desc.target).cfg.lane = y)) (fun _ => .laneFaulted) s.stamp := by
  have now : (m.updLane y Lane.toFaulted).stamp = s.stamp := by
    rw [← noted.stamp, State.stamp, State.updLane_elapsed, State.stamp]
  rw [State.faultEnds_of_idle waits,
    State.faultSearch_as (s := s) (fun v => by rw [State.updLane_entry, noted.entry]) now, State.updLane_host]

/-- No QUEUED entry whose target lies on the lane is left. -/
theorem State.faultEnds_clears (fits : ∀ g, (m.host g).queueFits = true) (g : HostId) : ∀ e ∈ ((m.faultEnds y).host g).sq,
    e.state = .queued → decide ((s.entry e.desc.target).cfg.lane = y) = false := by
  cases waits : (m.lane y).run with
  | none =>
    rw [State.faultEnds_idle_host noted waits]
    exact HostCtx.endWork_clears (fits g) _ _ _
  | some r =>
    let es := (m.host r.host).runningOn y
    let t := (m.runLeaves y r r.faultedResults Lane.toFaulted).takeStatuses r r.faultedResults es.zipIdx
    have counted := State.takeStatuses_only (m.runLeaves y r r.faultedResults Lane.toFaulted) r r.faultedResults es
    have left : ((m.runLeaves y r r.faultedResults Lane.toFaulted).host g).queueFits = true := by
      rw [State.runLeaves, State.updHost_host]
      split
      · rw [State.updLane_host]
        exact (HostMove.runEnded _ y { r with results := r.faultedResults } m.stamp).queueFits (fits _)
      · rw [State.updLane_host]
        exact fits g
    have whole : (t.host g).queueFits = true := counted.keeps _ hostLaw_queueFits g left
    have cfg (v : TargetId) : (t.entry v).cfg = (s.entry v).cfg := by
      rw [State.takeStatuses_entry, (TableEntry.afterStatuses_kept _ _ _ _ _).1, State.runLeaves_entry, noted.entry]
    have now : t.stamp = s.stamp := by rw [counted.rest.stamp, State.runLeaves_stamp, noted.stamp]
    have searched : ∀ e ∈ ((m.runCounts y r r.faultedResults Lane.toFaulted fun s => s.faultSearch y).host g).sq,
        e.state = .queued → decide ((s.entry e.desc.target).cfg.lane = y) = false := by
      rw [State.runCounts, State.faultSearch_as cfg now]
      exact HostCtx.endWork_clears whole _ _ _
    rw [State.faultEnds_of_run waits, State.endRun_eq]
    exact (State.offerAll_only _ _).keeps _ (hostLaw_clear _) g ((State.endLeases_only _ _ _).keeps _ (hostLaw_clear _) g searched)

theorem State.faultEnds_stamp : (m.faultEnds y).stamp = s.stamp := by
  cases waits : (m.lane y).run with
  | none =>
    rw [State.faultEnds_of_idle waits, (State.faultSearch_only _ y).rest.stamp, ← noted.stamp, State.stamp, State.updLane_elapsed,
      State.stamp]
  | some r =>
    rw [State.faultEnds_of_run waits, (State.endRun_only _ y _ _ _ fun s => s.faultSearch_only y).rest.stamp, ← noted.stamp]
    exact State.runLeaves_stamp

end

theorem HostCtx.endRun_attached (c : HostCtx) (y : LaneId) (r : Run) (now : Stamp) : (c.endRun y r now).attached = c.attached := by
  cases discarded : r.discarded
  · rw [HostCtx.endRun_of_live discarded, HostCtx.appendRecords_attached]
  · rw [HostCtx.endRun_of_discarded discarded]

theorem State.faultEnds_attached (m : State) (y : LaneId) (g : HostId) : ((m.faultEnds y).host g).attached = (m.host g).attached := by
  cases waits : (m.lane y).run with
  | none => rw [State.faultEnds_of_idle waits, (State.faultSearch_only _ y).attached, State.updLane_host]
  | some r =>
    rw [State.faultEnds_of_run waits]
    exact m.endRun_keeps y _ _ _ (fun s => s.faultSearch_only y) _ (hostLaw_fixed (·.attached) _ (by simp) (by simp))
      (fun c same => (c.endRun_attached y _ _).trans same) g rfl

/-- Settles O33. -/
theorem thirdFailureFaultsTheLane : Obligations.ThirdFailureFaultsTheLane := by
  intro s y o r released free mode recovery due last fails law rec'
  let made : Recovery := { r with attempts := r.attempts + 1 }
  let m := s.recoveryOffered y made false
  have noted : s.Noted m y := s.noted_recoveryOffered y made false
  have lane : m.lane y = { s.lane y with recovery := none } := s.recoveryOffered_lane y made false
  have host (g : HostId) : m.host g = s.hostAfterOffer rec' g (s.host g) := s.recoveryOffered_host y made false g
  have trace : m.trace = (s.trace.offer rec').1 := s.recoveryOffered_trace y made false
  have faults : s.recoveryNext y o = m.laneFault y := by
    rw [State.recoveryNext_of_due mode recovery due, State.recoveryTry_of_last fails s y last, State.recoveryEnd_eq, free]
  have told := State.tellAttached_only (m.faultEnds y) y .laneFaulted
  have takes (g : HostId) : (m.laneFault y).host g = ((m.faultEnds y).host g).takeNotice .laneFaulted (.lane y) 0 s.stamp := by
    rw [State.laneFault_eq, State.tellAttached_takes, State.faultEnds_stamp noted]
  refine ⟨m.laneFault y, (next_live released _).trans (congrArg Host.Outcome.next faults), ?_, fun z other => ?_, fun v => ?_,
    fun g e he queued onLane => ?_, fun g attached => ?_, fun idle => ⟨?_, ?_, fun g => ?_⟩, ?_⟩
  · rw [State.laneFault_lane, if_pos rfl, lane]
    rfl
  · rw [State.laneFault_lane, if_neg other, noted.lane z other]
  · rw [((m.laneFault_moved y).entries v).cfg, noted.entry]
  · rw [takes, HostCtx.takeNotice_sq] at he
    have fits (g : HostId) : (m.host g).queueFits = true := by
      rw [host]
      exact HostCtx.queueFits_offered (law g) rec'
    have off := State.faultEnds_clears noted fits g e he queued
    rw [decide_eq_false_iff_not] at off
    exact off onLane
  · rw [takes]
    refine HostCtx.takeNotice_last ?_ (by decide) _ _ _
    rw [State.faultEnds_attached, host, s.hostAfterOffer_fixed (f := (·.attached)) (by simp)]
    exact attached
  · have waits : (m.lane y).run = none := by rw [lane]; exact idle
    rw [State.laneFault_eq, told.rest.table, State.faultEnds_of_idle waits, (State.faultSearch_only _ y).rest.table, State.updLane_table]
    exact s.recoveryOffered_table y made false
  · have waits : (m.lane y).run = none := by rw [lane]; exact idle
    rw [State.laneFault_eq, told.rest.trace, State.faultEnds_of_idle waits, (State.faultSearch_only _ y).rest.trace, State.updLane_trace]
    exact trace
  · have waits : (m.lane y).run = none := by rw [lane]; exact idle
    rw [takes, State.faultEnds_idle_host noted waits, host]
  · intro run done k here current es results stopped
    have waits : (m.lane y).run = some run := by rw [lane]; exact current
    have faulted := run.faultedResults_of_attempt results stopped
    have ends := State.faultEnds_of_run waits
    rw [faulted] at ends
    have ended := State.endRun_runEnded (r := run) (results := attemptResults es done k { here with status := .laneFaulted })
      (after := Lane.toFaulted) (fault := fun s => s.faultSearch y) noted (fun t => t.faultSearch_only y) fun l none_ => none_
    rw [← ends, trace] at ended
    refine ⟨State.runEnded_told ended (fun g => ?_) told.rest, fun g => ?_⟩
    · rw [takes]
      exact HostCtx.sameWork_takeNotice _ _ _ _ _
    · have hosts := State.endRun_host (r := run) (results := attemptResults es done k { here with status := .laneFaulted })
        (after := Lane.toFaulted) (fault := fun s => s.faultSearch y)
        (search := fun c => c.endWork (fun w => w.any fun e => decide ((s.entry e.desc.target).cfg.lane = y)) (fun _ => .laneFaulted)
          s.stamp) noted (fun t => t.faultSearch_only y) (fun l none_ => none_)
        (fun t cfg now g => State.faultSearch_as cfg now y g) g
      rw [← ends, trace, host] at hosts
      rw [takes, hosts]

end Sys2Proof.Machine
end

section
/-! PROOFS. What a teardown leaves (R64, R115, R173 to R175), and the two events that make one (R168, R176). -/

namespace Sys2Proof.Machine

/-! ## The work and the runs of the host (R173, R175) -/

/-- The RUNNING entries that a teardown of h is the first to find on lane x. -/
def State.firstFound (s : State) (h : HostId) (x : LaneId) : Nat :=
  if (s.lane x).run.any fun r => decide (r.host = h ∧ r.discarded = false) then ((s.host h).runningOn x).length else 0

theorem State.discardRun_of_found {s : State} {h : HostId} {x : LaneId} {r : Run} (run : (s.lane x).run = some r)
    (found : r.host = h ∧ r.discarded = false) : s.discardRun h x =
      (s.updHost h fun c => { c with discardedRunning := c.discardedRunning + (c.runningOn x).length }).updLane x fun l =>
        { l with run := some { r with discarded := true } } := by
  rw [State.discardRun, run]
  exact if_pos found

theorem State.discardRun_of_other {s : State} {h : HostId} {x : LaneId}
    (other : (s.lane x).run.any (fun r => decide (r.host = h ∧ r.discarded = false)) = false) : s.discardRun h x = s := by
  unfold State.discardRun
  split
  · next r run =>
    rw [run, Option.any_some, decide_eq_false_iff_not] at other
    exact if_neg other
  · rfl

/-- The teardown finds a run of the host that no teardown found before, or none. -/
theorem State.firstFound_cases (s : State) (h : HostId) (x : LaneId) :
    (∃ r, (s.lane x).run = some r ∧ r.host = h ∧ r.discarded = false)
      ∨ (s.lane x).run.any (fun r => decide (r.host = h ∧ r.discarded = false)) = false := by
  cases found : (s.lane x).run.any fun r => decide (r.host = h ∧ r.discarded = false)
  · exact .inr rfl
  · obtain ⟨r, run, own⟩ := (Option.any_eq_true _ _).1 found
    exact .inl ⟨r, run, of_decide_eq_true own⟩

theorem State.discardRun_host (s : State) (h : HostId) (x : LaneId) (g : HostId) : (s.discardRun h x).host g =
    if g = h then { s.host h with discardedRunning := (s.host h).discardedRunning + s.firstFound h x } else s.host g := by
  rcases s.firstFound_cases h x with ⟨r, run, found⟩ | other
  · have count : s.firstFound h x = ((s.host h).runningOn x).length := if_pos (by rw [run]; exact decide_eq_true found)
    rw [State.discardRun_of_found run found, State.updLane_host, State.updHost_host, count]
  · have count : s.firstFound h x = 0 := if_neg (by rw [other]; simp)
    rw [State.discardRun_of_other other, count]
    exact (ite_host_self s h g).symm

/-- The run of a lane after a teardown of h. -/
def Lane.discards (l : Lane) (h : HostId) : Lane :=
  { l with run := l.run.map fun r => { r with discarded := r.discarded || decide (r.host = h) } }

theorem Lane.discards_of_other {l : Lane} {h : HostId}
    (other : l.run.any (fun r => decide (r.host = h ∧ r.discarded = false)) = false) : l.discards h = l := by
  unfold Lane.discards
  cases run : l.run with
  | none => rw [Option.map_none, ← run]
  | some r =>
    rw [run, Option.any_some, decide_eq_false_iff_not] at other
    have same : (r.discarded || decide (r.host = h)) = r.discarded := by
      cases discarded : r.discarded
      · simpa [discarded] using other
      · rfl
    rw [Option.map_some, same, ← run]

theorem State.discardRun_lane (s : State) (h : HostId) (x z : LaneId) : (s.discardRun h x).lane z =
    if z = x then (s.lane x).discards h else s.lane z := by
  rcases s.firstFound_cases h x with ⟨r, run, own, fresh⟩ | other
  · rw [State.discardRun_of_found run ⟨own, fresh⟩]
    by_cases same : z = x
    · subst same
      rw [if_pos rfl, State.updLane_lane_self, State.updHost_lane, Lane.discards, run]
      simp [own]
    · rw [if_neg same, State.updLane_lane_ne _ _ same, State.updHost_lane]
  · rw [State.discardRun_of_other other, Lane.discards_of_other other]
    split
    · next same => rw [same]
    · rfl

/-- The work of host h once it is torn down. -/
def State.workTornDown (s : State) (h : HostId) : State := ((s.updHost h HostCtx.clearWork).discardRun h .A).discardRun h .B

theorem HostCtx.clearWork_runningOn (c : HostCtx) (x : LaneId) : c.clearWork.runningOn x = c.runningOn x := by
  rw [HostCtx.runningOn, HostCtx.clearWork, List.filter_filter, HostCtx.runningOn]
  refine List.filter_congr fun e _ => ?_
  by_cases running : e.state = .running x
  · simp [SubEntry.queued, running]
  · simp [running]

theorem State.workTornDown_lane (s : State) (h : HostId) (x : LaneId) : (s.workTornDown h).lane x = (s.lane x).discards h := by
  rw [State.workTornDown, State.discardRun_lane, State.discardRun_lane, State.discardRun_lane, State.updHost_lane, State.updHost_lane,
    State.updHost_lane]
  cases x <;> simp

theorem State.workTornDown_host (s : State) (h g : HostId) : (s.workTornDown h).host g =
    if g = h then
      { (s.host h).clearWork with
        discardedRunning := (s.host h).discardedRunning + ([LaneId.A, .B].map (s.firstFound h)).sum }
    else s.host g := by
  have cleared (x : LaneId) : (s.updHost h HostCtx.clearWork).firstFound h x = s.firstFound h x := by
    unfold State.firstFound
    rw [State.updHost_lane, State.updHost_host, if_pos rfl, HostCtx.clearWork_runningOn]
  have second : ((s.updHost h HostCtx.clearWork).discardRun h .A).firstFound h .B = s.firstFound h .B := by
    rw [← cleared]
    unfold State.firstFound
    have apart : LaneId.B ≠ .A := by simp
    rw [State.discardRun_lane, if_neg apart, State.discardRun_host, if_pos rfl]
    rfl
  rw [State.workTornDown, State.discardRun_host, State.discardRun_host, State.discardRun_host, second, cleared, State.updHost_host,
    State.updHost_host]
  by_cases own : g = h
  · subst own
    simp [HostCtx.clearWork, Nat.add_assoc]
  · simp [own]

/-- Taking the host's queued work away changes nothing but the hosts and the lanes. -/
structure State.OnlyWork (s t : State) : Prop where
  entry : ∀ v, t.entry v = s.entry v
  elapsed : t.elapsed = s.elapsed
  trace : t.trace = s.trace

theorem State.discardRun_only (s : State) (h : HostId) (x : LaneId) : s.OnlyWork (s.discardRun h x) := by
  rcases s.firstFound_cases h x with ⟨r, run, found⟩ | other
  · rw [State.discardRun_of_found run found]
    exact ⟨fun v => by rw [State.updLane_entry, State.updHost_entry], by rw [State.updLane_elapsed, State.updHost_elapsed],
      by rw [State.updLane_trace, State.updHost_trace]⟩
  · rw [State.discardRun_of_other other]
    exact ⟨fun _ => rfl, rfl, rfl⟩

theorem State.workTornDown_only (s : State) (h : HostId) : s.OnlyWork (s.workTornDown h) := by
  obtain ⟨entryA, elapsedA, traceA⟩ := (s.updHost h HostCtx.clearWork).discardRun_only h .A
  obtain ⟨entryB, elapsedB, traceB⟩ := ((s.updHost h HostCtx.clearWork).discardRun h .A).discardRun_only h .B
  exact ⟨fun v => (entryB v).trans ((entryA v).trans (State.updHost_entry ..)), elapsedB.trans (elapsedA.trans (State.updHost_elapsed ..)),
    traceB.trans (traceA.trans (State.updHost_trace ..))⟩

/-- RUNNING entries stay, so what touches a target does too (R51, R173). -/
theorem State.workTornDown_running (s : State) (h k : HostId) (x : LaneId) (t : TargetId) :
    (∃ e ∈ ((s.workTornDown h).host k).sq, e.state = .running x ∧ e.desc.target = t)
      ↔ ∃ e ∈ (s.host k).sq, e.state = .running x ∧ e.desc.target = t := by
  rw [State.workTornDown_host]
  split
  · next own =>
    subst own
    refine exists_congr fun e => ?_
    simp only [HostCtx.clearWork, List.mem_filter, and_assoc]
    refine and_congr_right fun _ => ⟨fun ⟨_, both⟩ => both, fun ⟨running, named⟩ => ⟨?_, running, named⟩⟩
    simp [SubEntry.queued, running]
  · exact Iff.rfl

theorem Lane.discards_run (l : Lane) (h : HostId) (p : HostId → Prop) :
    (∃ r, (l.discards h).run = some r ∧ p r.host) ↔ ∃ r, l.run = some r ∧ p r.host := by
  unfold Lane.discards
  cases l.run <;> simp

theorem State.workTornDown_touchedBy (s : State) (h : HostId) (t : TargetId) (g : HostId) :
    (s.workTornDown h).touchedBy t g = s.touchedBy t g := by
  refine Bool.eq_iff_iff.2 ?_
  rw [State.touchedBy_iff, State.touchedBy_iff]
  refine exists_congr fun x => ?_
  simp only [s.workTornDown_running h, State.workTornDown_lane]
  exact (s.lane x).discards_run h fun k => k = g ∧ ∃ e ∈ (s.host g).sq, e.state = .running x ∧ e.desc.target = t

theorem State.workTornDown_touchedByOther (s : State) (h : HostId) (t : TargetId) :
    (s.workTornDown h).touchedByOther t = s.touchedByOther t := by
  funext g
  refine Bool.eq_iff_iff.2 ?_
  rw [State.touchedByOther_iff, State.touchedByOther_iff]
  refine exists_congr fun x => ?_
  simp only [s.workTornDown_running h, State.workTornDown_lane]
  exact (s.lane x).discards_run h fun k => k ≠ g ∧ ∃ e ∈ (s.host k).sq, e.state = .running x ∧ e.desc.target = t

/-! ## The leases (R64) -/

/-- The leases of these targets at a teardown of h, in turn. -/
def State.leasesTornDown (s : State) (h : HostId) (ts : List TargetId) : State := ts.foldl (fun s t => s.leaseTeardown h t) s

theorem State.leasesTornDown_cons (s : State) (h : HostId) (t : TargetId) (ts : List TargetId) :
    s.leasesTornDown h (t :: ts) = (s.leaseTeardown h t).leasesTornDown h ts := rfl

theorem State.leasesTornDown_only (s : State) (h : HostId) (ts : List TargetId) : s.TablesOnly (s.leasesTornDown h ts) :=
  TablesOnly.foldl _ (fun s t => s.leaseTeardown_only h t) _ _

/-- The lease of entry t after the teardown of h. -/
def State.leaseTornDown (s : State) (h : HostId) (t : TargetId) : Lease :=
  (s.entry t).lease.tornDown h s.elapsed (s.touchedBy t h) (s.touchedByOther t)

/-- A teardown of one lease leaves what the others will be. -/
theorem State.leaseTeardown_leaseTornDown (s : State) (h : HostId) {t v : TargetId} (other : v ≠ t) :
    (s.leaseTeardown h t).leaseTornDown h v = s.leaseTornDown h v := by
  have only := s.leaseTeardown_only h t
  rw [State.leaseTornDown, State.leaseTeardown_entry, if_neg other, only.rest.elapsed, only.touchedBy, funext (only.touchedByOther v),
    State.leaseTornDown]

theorem State.leasesTornDown_entry {ts : List TargetId} (once : ts.Nodup) (s : State) (h : HostId) (v : TargetId) :
    (s.leasesTornDown h ts).entry v = if v ∈ ts then { s.entry v with lease := s.leaseTornDown h v } else s.entry v := by
  induction ts generalizing s with
  | nil => rfl
  | cons t ts ih =>
    obtain ⟨fresh, once⟩ := List.nodup_cons.1 once
    rw [State.leasesTornDown_cons, ih once, State.leaseTeardown_entry]
    by_cases same : v = t
    · subst same
      simp [fresh, State.leaseTornDown]
    · simp [same, s.leaseTeardown_leaseTornDown h same]

theorem State.leasesTornDown_host_ne {ts : List TargetId} (once : ts.Nodup) (s : State) {h g : HostId} (other : g ≠ h) :
    (s.leasesTornDown h ts).host g =
      ts.foldl (fun e t => e.toldGrant g t (s.entry t).lease (s.leaseTornDown h t) s.stamp) (s.host g) := by
  induction ts generalizing s with
  | nil => rfl
  | cons t ts ih =>
    obtain ⟨fresh, once⟩ := List.nodup_cons.1 once
    rw [State.leasesTornDown_cons, ih once, (s.leaseTeardown_only h t).rest.stamp, s.leaseTeardown_host_ne other, List.foldl_cons]
    refine List.foldl_ext _ _ _ fun e v hv => ?_
    have apart : v ≠ t := by
      rintro rfl
      exact fresh hv
    rw [s.leaseTeardown_leaseTornDown h apart, State.leaseTeardown_entry, if_neg apart]

theorem State.leasesTornDown_host_self (ts : List TargetId) {s : State} {h : HostId} (running : ∀ e ∈ (s.host h).sq, e.state ≠ .queued) :
    (s.leasesTornDown h ts).host h = s.host h := by
  induction ts generalizing s with
  | nil => rfl
  | cons t ts ih =>
    have same := State.leaseTeardown_host_self running t
    rw [State.leasesTornDown_cons, ih (by rwa [same]), same]

/-- A grant check grants no host that waits nowhere. -/
theorem Lease.checked_apart {l : Lease} {h : HostId} (notHeld : l.state ≠ .held h) (gone : ∀ w ∈ l.waiters, w.host ≠ h) (now : Nat)
    (blocked : HostId → Bool) :
    (l.checked now blocked).state ≠ .held h ∧ ∀ w ∈ (l.checked now blocked).waiters, w.host ≠ h := by
  rcases l.grants_cases blocked with ⟨w, ws, granted⟩ | nobody
  · rw [Lease.checked_of_grants granted]
    rw [granted.2.1] at gone
    obtain ⟨first, rest⟩ := List.forall_mem_cons.1 gone
    exact ⟨by simpa using first, rest⟩
  · rw [Lease.checked_of_none nobody]
    exact ⟨notHeld, gone⟩

/-- A host that is torn down holds no lease in state HELD and waits for none (R64). -/
theorem Lease.tornDown_gone (l : Lease) (h : HostId) (now : Nat) (touched : Bool) (blocked : HostId → Bool) :
    (l.tornDown h now touched blocked).state ≠ .held h ∧ ∀ w ∈ (l.tornDown h now touched blocked).waiters, w.host ≠ h := by
  have gone : ∀ w ∈ (l.without h).waiters, w.host ≠ h := fun w hw => by simpa using (List.mem_filter.1 hw).2
  rcases l.teardown_cases h with held | ⟨r, ending⟩ | ⟨free, head⟩ | ⟨notHeld, notEnding, notHead⟩
  · rw [Lease.tornDown_of_held held]
    cases touched
    · exact Lease.checked_apart (l := { l.without h with state := .free }) (by simp) gone now blocked
    · exact ⟨by simp, gone⟩
  · rw [Lease.tornDown_of_ending ending]
    exact ⟨by simp, gone⟩
  · rw [Lease.tornDown_of_head free head]
    exact Lease.checked_apart (by simp [Lease.without, free]) gone now blocked
  · rw [Lease.tornDown_of_other notHeld notEnding notHead]
    exact ⟨notHeld, gone⟩

/-! ## The whole teardown (R173 to R175) -/

theorem State.teardown_eq (s : State) (h : HostId) : s.teardown h =
    (((((s.workTornDown h).leasesTornDown h allTargets).dropClaim h).updLane .A (Lane.abandonRestart h)).updLane .B
      (Lane.abandonRestart h)).updPort h Port.cleared := rfl

theorem State.dropClaim_eq (s : State) (h : HostId) :
    s.dropClaim h = { s with trace := { s.trace with claimant := if s.trace.claimant = some h then none else s.trace.claimant } } := by
  unfold State.dropClaim
  split <;> rfl

theorem State.dropClaim_host (s : State) (h g : HostId) : (s.dropClaim h).host g = s.host g := by rw [State.dropClaim_eq]; rfl
theorem State.dropClaim_entry (s : State) (h : HostId) (v : TargetId) : (s.dropClaim h).entry v = s.entry v := by
  rw [State.dropClaim_eq]; rfl
theorem State.dropClaim_lane (s : State) (h : HostId) (x : LaneId) : (s.dropClaim h).lane x = s.lane x := by
  rw [State.dropClaim_eq]; cases x <;> rfl

theorem allTargets_nodup : allTargets.Nodup := List.nodup_finRange 48

theorem State.workTornDown_leaseTornDown (s : State) (h : HostId) (t : TargetId) :
    (s.workTornDown h).leaseTornDown h t = s.leaseTornDown h t := by
  have only := s.workTornDown_only h
  rw [State.leaseTornDown, only.entry, only.elapsed, State.workTornDown_touchedBy, State.workTornDown_touchedByOther,
    State.leaseTornDown]

theorem State.teardown_entry (s : State) (h : HostId) (v : TargetId) :
    (s.teardown h).entry v = { s.entry v with lease := s.leaseTornDown h v } := by
  rw [State.teardown_eq, State.updPort_entry, State.updLane_entry, State.updLane_entry, State.dropClaim_entry,
    State.leasesTornDown_entry allTargets_nodup, if_pos (mem_allTargets v), State.workTornDown_leaseTornDown,
    (s.workTornDown_only h).entry]

theorem State.teardown_lane (s : State) (h : HostId) (x : LaneId) :
    (s.teardown h).lane x = ((s.lane x).discards h).abandonRestart h := by
  rw [State.teardown_eq, State.updPort_lane, State.abandoned_lane, State.dropClaim_lane, (State.leasesTornDown_only _ h _).rest.lane,
    State.workTornDown_lane]

theorem State.teardown_trace (s : State) (h : HostId) : (s.teardown h).trace =
    { s.trace with claimant := if s.trace.claimant = some h then none else s.trace.claimant } := by
  rw [State.teardown_eq, State.updPort_trace, State.updLane_trace, State.updLane_trace, State.dropClaim_eq,
    (State.leasesTornDown_only _ h _).rest.trace, (s.workTornDown_only h).trace]

/-- The host that is torn down. -/
def HostCtx.tornDown (c : HostCtx) (found : Nat) : HostCtx :=
  { c.clearWork with discardedRunning := c.discardedRunning + found, port := c.port.cleared }

theorem State.teardown_host_self (s : State) (h : HostId) :
    (s.teardown h).host h = (s.host h).tornDown ([LaneId.A, .B].map (s.firstFound h)).sum := by
  have work := s.workTornDown_host h h
  rw [if_pos rfl] at work
  have running : ∀ e ∈ ((s.workTornDown h).host h).sq, e.state ≠ .queued := by
    rw [work]
    intro e he
    simpa [SubEntry.queued] using (List.mem_filter.1 he).2
  rw [State.teardown_eq, State.updPort_host, if_pos rfl, State.updLane_host, State.updLane_host, State.dropClaim_host,
    State.leasesTornDown_host_self allTargets running, work]
  rfl

theorem State.teardown_host_ne (s : State) {h g : HostId} (other : g ≠ h) : (s.teardown h).host g =
    allTargets.foldl (fun e t => e.toldGrant g t (s.entry t).lease (s.leaseTornDown h t) s.stamp) (s.host g) := by
  have only := s.workTornDown_only h
  have now : (s.workTornDown h).stamp = s.stamp := by rw [State.stamp, only.elapsed, State.stamp]
  rw [State.teardown_eq, State.updPort_host, if_neg other, State.updLane_host, State.updLane_host, State.dropClaim_host,
    State.leasesTornDown_host_ne allTargets_nodup _ other, now, State.workTornDown_host, if_neg other]
  refine List.foldl_ext _ _ _ fun e t _ => ?_
  rw [only.entry, State.workTornDown_leaseTornDown]

theorem HostCtx.clearWork_sq (c : HostCtx) : c.clearWork.sq = c.sq.filter fun e => decide (e.state ≠ .queued) :=
  List.filter_congr fun e _ => by simp [SubEntry.queued]

theorem State.teardown_tornDown (s : State) (h : HostId) : s.tornDown (s.teardown h) h := by
  have own := s.teardown_host_self h
  have gone (t : TargetId) := (s.entry t).lease.tornDown_gone h s.elapsed (s.touchedBy t h) (s.touchedByOther t)
  unfold State.tornDown
  dsimp only
  rw [own]
  refine ⟨(s.host h).clearWork_sq, rfl, rfl, rfl, rfl, rfl, rfl, rfl, rfl, rfl, rfl, rfl, rfl, rfl, rfl, rfl, fun t => ?_, fun t => ?_,
    fun t => ?_, s.teardown_trace h, fun t => ?_, fun g other => ?_, fun x => ?_⟩
  · rw [State.teardown_entry]
    rfl
  · rw [State.teardown_entry]
    exact (gone t).1
  · rw [State.teardown_entry]
    exact (gone t).2
  · rw [State.teardown_entry]
    exact ⟨rfl, rfl, rfl⟩
  · rw [State.teardown_host_ne s other]
    refine List.foldl_ext _ _ _ fun e t _ => ?_
    rw [State.teardown_entry]
  · rw [State.teardown_lane]
    rfl

/-! ## DETACH and the host reset line (R168, R176) -/

/-- What a teardown leaves does not depend on the ports after it. -/
theorem State.tornDown_updPort {s u : State} {h : HostId} (torn : s.tornDown u h) (f : Port → Port) : s.tornDown (u.updPort h f) h := by
  obtain ⟨sq, cq, nq, chain, paused, tag, notice, overflow, seen, credits, running, rights, complEnable, noticeEnable, stopOnFault,
    window, lease, notHeld, gone, trace, entries, others, lanes⟩ := torn
  have own : (u.updPort h f).host h = { u.host h with port := f (u.host h).port } := by rw [State.updPort_host, if_pos rfl]
  unfold State.tornDown
  dsimp only
  rw [own]
  refine ⟨sq, cq, nq, chain, paused, tag, notice, overflow, seen, credits, running, rights, complEnable, noticeEnable, stopOnFault,
    window, lease, notHeld, gone, trace, entries, fun g other => ?_, fun x => ?_⟩
  · rw [State.updPort_host, if_neg other]
    exact others g other
  · rw [State.updPort_lane]
    exact lanes x

/-- Nor does it depend on whether the host was ATTACHED before. -/
theorem State.tornDown_of_attached {s u : State} {h : HostId} {b : Bool}
    (torn : (s.updHost h fun c => { c with attached := b }).tornDown u h) : s.tornDown u h := by
  have running (k : HostId) : ((s.updHost h fun c => { c with attached := b }).host k).sq = (s.host k).sq := by
    rw [State.updHost_host]
    split
    · next own => rw [own]
    · rfl
  have touched (t : TargetId) : (s.updHost h fun c => { c with attached := b }).touchedBy t h = s.touchedBy t h := by
    refine Bool.eq_iff_iff.2 ?_
    rw [State.touchedBy_iff, State.touchedBy_iff]
    simp only [running, State.updHost_lane]
  have other (t : TargetId) : (s.updHost h fun c => { c with attached := b }).touchedByOther t = s.touchedByOther t := by
    funext g
    refine Bool.eq_iff_iff.2 ?_
    rw [State.touchedByOther_iff, State.touchedByOther_iff]
    simp only [running, State.updHost_lane]
  have own : (s.updHost h fun c => { c with attached := b }).host h = { s.host h with attached := b } := by
    rw [State.updHost_host, if_pos rfl]
  have now : (s.updHost h fun c => { c with attached := b }).stamp = s.stamp := by rw [State.stamp, State.updHost_elapsed, State.stamp]
  unfold State.tornDown at torn ⊢
  dsimp only at torn ⊢
  simp only [own, State.updHost_lane, State.updHost_entry, State.updHost_elapsed, State.updHost_trace, touched, other, now] at torn
  obtain ⟨sq, cq, nq, chain, paused, tag, notice, overflow, seen, credits, running, rights, complEnable, noticeEnable, stopOnFault,
    window, lease, notHeld, gone, trace, entries, others, lanes⟩ := torn
  refine ⟨sq, cq, nq, chain, paused, tag, notice, overflow, seen, credits, running, rights, complEnable, noticeEnable, stopOnFault,
    window, lease, notHeld, gone, trace, entries, fun g apart => ?_, lanes⟩
  have same := others g apart
  rwa [State.updHost_host, if_neg apart] at same

theorem commandUnit_detach {s : State} (loaded : s.loader.state ≠ .loading) (h : HostId) (x : Byte) :
    commandUnit h (commandFrameOf .detach x []) s = .ok .detach := by
  have ready : s.loading = false := decide_eq_false loaded
  have code : Cmd.ofCode (commandFrameOf .detach x []).code = some .detach :=
    show Cmd.ofCode Cmd.detach.code = some .detach by decide
  have permitted : Cmd.permitted .detach (s.host h).rights = true := rfl
  have empty : (commandFrameOf .detach x []).payload.isEmpty = true := rfl
  simp only [commandUnit, code, ready, permitted, empty, Bool.false_and, Bool.not_true, Bool.and_false, Bool.false_eq_true, if_false]

/-- A DETACH that its port executes, or takes while the slot is PENDING (R182, R184, R187). -/
theorem exec_detach_heard {s : State} {h : HostId} {x : Byte} (heard : s.accepts h .detach x [] = true
      ∨ s.listens h = true ∧ s.loader.state ≠ .loading ∧ (s.host h).port.slot = .pending) :
    exec (.detach h x) s = .next ((s.teardown h).answers h .detach x [] ⟨.done, [byteOf ((s.teardown h).host h).credits]⟩) := by
  rcases heard with accepted | ⟨listens, loaded, pending⟩
  · exact congrArg Host.Outcome.next (State.sends_answered accepted rfl)
  · refine congrArg Host.Outcome.next ?_
    have wf : (commandFrameOf .detach x []).wf = true := rfl
    have detach : Frame.isDetach (commandFrameOf .detach x []) = true := decide_eq_true rfl
    have taken : s.takeFrame h (commandFrameOf .detach x []) quietObs =
        (s.execute h (commandFrameOf .detach x []) quietObs).sdoZeros h 5 := by
      simp only [State.takeFrame, wf, if_true, State.judgeSlot, pending, detach]
      rfl
    rw [State.sends, State.onPort_of_hearing s h 0 _ listens]
    refine taken.trans ?_
    rw [State.execute, commandUnit_detach loaded]
    exact State.updPort_updPort ..

/-- Settles O50. -/
theorem teardownsByDetachAndReset : Obligations.TeardownsByDetachAndReset := by
  refine ⟨fun s h x heard => ?_, fun s h released => ⟨fun attached => ?_, fun held => ?_⟩⟩
  · have listens : s.hears h 0 = true := by
      rcases heard with accepted | ⟨listens, _⟩
      · simp only [State.accepts, State.executes, State.listens, Bool.and_eq_true] at accepted
        obtain ⟨⟨⟨⟨⟨⟨hears, _⟩, _⟩, _⟩, _⟩, _⟩, _⟩ := accepted
        exact hears
      · exact listens
    have attached : (s.host h).attached = true := by
      simp only [State.hears, Bool.and_eq_true] at listens
      exact listens.1.2
    have own := s.teardown_host_self h
    refine ⟨_, exec_detach_heard heard, State.tornDown_updPort (s.teardown_tornDown h) _, ?_⟩
    generalize s.teardown h = v at own ⊢
    rw [State.answers, State.updPort_host, if_pos rfl]
    refine ⟨?_, rfl, rfl, ?_⟩
    · rw [own]
      exact attached
    · rw [own]
      rfl
  · let down := s.updHost h fun c => { c with attached := false }
    have falls : s.hostResetFalls h = (down.teardown h).updPort h Port.held := if_pos attached
    have own : (down.teardown h).host h = (down.host h).tornDown ([LaneId.A, .B].map (down.firstFound h)).sum := down.teardown_host_self h
    have held : (((down.teardown h).updPort h Port.held).host h).attached = false := by
      rw [State.updPort_host, if_pos rfl, own, State.updHost_host, if_pos rfl]
      rfl
    refine ⟨_, (next_live released _).trans (congrArg Host.Outcome.next falls),
      State.tornDown_of_attached (State.tornDown_updPort (down.teardown_tornDown h) _), held, ?_, ?_⟩
    · rw [State.attn, HostCtx.attn, held, Bool.false_and, Bool.and_false]
    · rw [State.updPort_port_self]
      exact ⟨rfl, rfl, rfl, rfl⟩
  · refine (next_live released _).trans (congrArg Host.Outcome.next ?_)
    exact if_neg (by simp [held])

end Sys2Proof.Machine
end
